-- ==== Sys2Proof/Word.lean ====
section
/-! DEFINITION. Word.lean: the word types of 00_scope.md R5 and R7. All values are unsigned. -/

namespace Sys2Proof

/-- A `u32` (R7): the width of the state words, of STATUS, of FAULT_CMD and of a command word. Its addition wraps (R8). -/
abbrev Word := BitVec 32

/-- A byte (R7). -/
abbrev Byte := BitVec 8

/-- Sixteen words, read as a 4x4 matrix in row-major order (R5, R21, R23). -/
abbrev Block := Vector Word 16

/-- The index of a word of a block, 0 to 15 (R10, R85). -/
abbrev Idx := Fin 16

end Sys2Proof
end

