-- ==== Sys2Proof/Config.lean ====
section
/-! DEFINITION. Config.lean: the implementation parameters of 00_scope.md R6, which the source leaves open. -/

namespace Sys2Proof

/-- The parameters a step reads (R6). They are configuration, not engine state (R37): State carries them unchanged, so that
every statement about a state holds for every value of them. -/
structure Config where
  /-- Where the 256-byte register window sits on the host bus (R50). -/
  ENGINE_BASE : Nat
  /-- Whether the primitive commands QR, DR, LDW, FFW, WLOAD and WSTORE are decoded (R90). -/
  DEBUG_CMDS : Bool
deriving DecidableEq, Repr

/-- The configuration of `State.reset`: `DEBUG_CMDS` is the spec's default (R6, D13). DESIGN CHOICE: the spec leaves
`ENGINE_BASE` open (D14) and this takes 0 (log entries 1 and 2). -/
def Config.default : Config := { ENGINE_BASE := 0, DEBUG_CMDS := true }

/-- `CMD_CYCLES(v, ROUNDS)` less one (R6, R296): OPEN, hence uninterpreted; the spec says only that it is positive and that
it depends on nothing else. No step reads it (log entry 3). -/
opaque Config.cmdCyclesLessOne : Word → BitVec 5 → Nat

/-- The time, less one, of a command that faults or is ignored while halted: a function of v, ROUNDS, KEYED and FAULTED
alone (R296). Uninterpreted (log entry 3). -/
opaque Config.faultCyclesLessOne : Word → BitVec 5 → Bool → Bool → Nat

end Sys2Proof
end

