-- ==== Sys2Proof/Syntax.lean ====
section
/-! DEFINITION. Syntax.lean: the eleven commands of the opcode map, 30_encoding.md R87. -/

namespace Sys2Proof

/-- The commands. A field is the unsigned number its bits give (R86), in the width its format gives it (R82 to R85); operand
values that a command faults on (ROUNDS_F 7, LEN 63) are commands all the same (R87). -/
inductive Instr where
  /-- NOP, format N, rule R240. -/
  | nop
  /-- INIT with ROUNDS_F, format R, rule R114. -/
  | init (rounds : BitVec 5)
  /-- SETCTR, format N, rule R221. -/
  | setctr
  /-- GEN with LEN, format L, rule R173. -/
  | gen (len : BitVec 7)
  /-- APPLY with LEN, format L, rule R174. -/
  | apply (len : BitVec 7)
  /-- QR with the indices A, B, C and D, format Q, rule R132. -/
  | qr (a b c d : Idx)
  /-- DR, format N, rule R154. -/
  | dr
  /-- LDW, format N, rule R175. -/
  | ldw
  /-- FFW, format N, rule R176. -/
  | ffw
  /-- WLOAD with LEN, format L, rule R177. -/
  | wload (len : BitVec 7)
  /-- WSTORE with LEN, format L, rule R178. -/
  | wstore (len : BitVec 7)
deriving DecidableEq, Repr

end Sys2Proof
end

