-- ==== Sys2Proof/Machine/State.lean ====
section
/-! DEFINITION. Machine/State.lean: the state of the engine (10_state.md R37) with the host's side of its window, the ways a
host access can find no step, and the state after reset. -/

namespace Sys2Proof.Machine

/-- One step of the host (10_state.md R20, 20_memory.md R70). An address is a host bus address, a width is in bytes. -/
inductive HostStep where
  /-- A read access of `width` bytes. -/
  | read (addr width : Nat)
  /-- A write access of the low `width` bytes of `value`. -/
  | write (addr width : Nat) (value : Word)
  /-- Assertion of the reset input (70_reset_and_hazards.md R290). -/
  | reset
deriving DecidableEq, Repr

/-- The engine's fault causes (60_exceptions.md R251). They are TAKEN, by a next state (`raiseFault`); they are not stops. -/
inductive FaultCode where
  /-- The word decodes to ILLEGAL (R252). -/
  | illegalCmd
  /-- INIT with ROUNDS_F not in {8, 12, 20} (R254). -/
  | badRounds
  /-- GEN, APPLY, WLOAD or WSTORE with LEN not 64 (R255). -/
  | badLength
  /-- SETCTR, GEN, APPLY, LDW or FFW with KEYED = 0 (R253). -/
  | notKeyed
deriving DecidableEq, Repr

/-- Why the machine stops with a fault. No command raises one. -/
inductive Fault where
  /-- Raised by a host access whose address lies outside [ENGINE_BASE, ENGINE_BASE + 256): such an address is not part of
  the engine (20_memory.md R69). SAFE: the model has no run through it. DESIGN CHOICE (log entry 8). -/
  | outsideWindow (addr : Nat)
deriving DecidableEq, Repr

/-- Why the model gives no step. -/
inductive Refusal where
  /-- An instruction without a meaning yet. No arm raises it. SAFE. -/
  | notModelled (mnemonic : String)
  /-- Raised by a host access of a width other than 1, 2 or 4: "the model gives it no step" (20_memory.md R54). SAFE. -/
  | unsupportedWidth (width : Nat)
  /-- Raised by a host access that is not naturally aligned: "the model gives it no step" (20_memory.md R54). SAFE. -/
  | misalignedAccess (off width : Nat)
deriving DecidableEq, Repr

/-- The machine. The first eleven fields are the spec's record (R37), under its names. `config` is the configuration (R6),
which no step changes. `pending` and `reads` are the model's own: the host's steps still to come, oldest first, and the
values its reads have returned, newest first (R62, R70; log entries 4 and 5). -/
structure State where
  /-- The stored state (R21). -/
  S : Block
  /-- The working state (R23). -/
  W : Block
  /-- The round count of the current engine instance (R24). -/
  ROUNDS : BitVec 5
  /-- An engine instance exists (R25). -/
  KEYED : Bool
  /-- The engine is halted (R26, R259). -/
  FAULTED : Bool
  /-- The fault code (R26, R251). -/
  FCODE : BitVec 4
  /-- The command word that faulted (R26). -/
  FAULT_CMD : Word
  /-- The key port (R27). -/
  KEYBUF : Vector Byte 32
  /-- The nonce port (R28). -/
  NONCEBUF : Vector Byte 8
  /-- The counter port (R29). -/
  CTRBUF : Vector Byte 8
  /-- The data buffer (R30). -/
  DBUF : Vector Byte 64
  /-- The parameters (R6). -/
  config : Config
  /-- The host's steps still to come, oldest first. -/
  pending : List HostStep
  /-- The values the host's reads have returned, newest first. -/
  reads : List Word
deriving DecidableEq, Repr

/-- The outcome of a step of this machine. -/
abbrev Result := Host.Outcome State Fault Refusal

/-- The machine right after reset: every register and buffer zero (R36, R290). DESIGN CHOICE: the configuration is
`Config.default` (log entries 1 and 2), the host has nothing pending and has read nothing (log entries 4 and 5). -/
def State.reset : State where
  S := Vector.replicate 16 0
  W := Vector.replicate 16 0
  ROUNDS := 0
  KEYED := false
  FAULTED := false
  FCODE := 0
  FAULT_CMD := 0
  KEYBUF := Vector.replicate 32 0
  NONCEBUF := Vector.replicate 8 0
  CTRBUF := Vector.replicate 8 0
  DBUF := Vector.replicate 64 0
  config := Config.default
  pending := []
  reads := []

end Sys2Proof.Machine
end

