-- ==== Sys2Proof/Machine/Flags.lean ====
section
/-! DEFINITION. Machine/Flags.lean: the status bits. The engine has no condition codes (10_state.md R32); what it has is
KEYED, FAULTED and FCODE, their view STATUS (R33), and the checks commands make of KEYED and of DEBUG_CMDS. -/

namespace Sys2Proof.Machine

/-- The FCODE value of a cause (60_exceptions.md R251). -/
def FaultCode.code : FaultCode → BitVec 4
  | .illegalCmd => 0x1
  | .badRounds => 0x2
  | .badLength => 0x3
  | .notKeyed => 0x4

/-- A status bit as a word. -/
def bitWord (b : Bool) : Word := if b then 1 else 0

/-- `STATUS = ROUNDS << 8 | FCODE << 4 | FAULTED << 1 | KEYED` (R33). -/
def statusWord (s : State) : Word :=
  s.ROUNDS.setWidth 32 <<< 8 ||| s.FCODE.setWidth 32 <<< 4 ||| bitWord s.FAULTED <<< 1 ||| bitWord s.KEYED

/-- NOT_KEYED unless an engine instance exists (R253). -/
def requireKeyed (s : State) : Option FaultCode := if s.KEYED then none else some .notKeyed

/-- ILLEGAL_CMD for a primitive command unless DEBUG_CMDS is true (R90). -/
def requireDebug (s : State) : Option FaultCode := if s.config.DEBUG_CMDS then none else some .illegalCmd

end Sys2Proof.Machine
end

