-- ==== Sys2Proof/WellFormed.lean ====
section
/-! DEFINITION. WellFormed.lean: which commands an engine of a given DEBUG_CMDS has. Field ranges need no check: the field
types of `Instr` are exactly the fields of formats R, L and Q. -/

namespace Sys2Proof

/-- The primitive commands, the rows of R87 that require DEBUG_CMDS. -/
def Instr.isDebug : Instr → Bool
  | .nop => false
  | .init _ => false
  | .setctr => false
  | .gen _ => false
  | .apply _ => false
  | .qr _ _ _ _ => true
  | .dr => true
  | .ldw => true
  | .ffw => true
  | .wload _ => true
  | .wstore _ => true

/-- A command of an engine with this DEBUG_CMDS: with DEBUG_CMDS false the primitive commands are no commands of it (R90). -/
def WellFormed (debugCmds : Bool) (i : Instr) : Bool := debugCmds || !i.isDebug

end Sys2Proof
end

