-- ==== Sys2Proof/Decode.lean ====
section
/-! DEFINITION. Decode.lean: byte order (00_scope.md R9), the command word's fields, the total decoder and the encoder
(30_encoding.md R80 to R93). -/

namespace Sys2Proof

/-! ### Byte order (R9, R52) -/

/-- `le32(b0, b1, b2, b3)` (R9): b0 is the least significant byte. -/
def le32 (b0 b1 b2 b3 : Byte) : Word :=
  BitVec.ofNat 32 (b0.toNat + 256 * b1.toNat + 65536 * b2.toNat + 16777216 * b3.toNat)

/-- Byte k of a word, `w[8k+7:8k]` (R9, R53). -/
def byteOf (w : Word) (k : Nat) : Byte := w.extractLsb' (8 * k) 8

/-- `bytes32(w)` (R9). -/
def bytes32 (w : Word) : List Byte := [byteOf w 0, byteOf w 1, byteOf w 2, byteOf w 3]

/-! ### Fields (R81 to R86) -/

/-- OP = `v[3:0]` (R81). -/
def opField (v : Word) : Nat := (v.extractLsb' 0 4).toNat

/-- ROUNDS_F = `v[8:4]` (R83). -/
def roundsField (v : Word) : BitVec 5 := v.extractLsb' 4 5

/-- LEN = `v[10:4]` (R84). -/
def lenField (v : Word) : BitVec 7 := v.extractLsb' 4 7

/-- The four-bit index field whose lowest bit is `lo` (R85). -/
def idxField (v : Word) (lo : Nat) : Idx := (v.extractLsb' lo 4).toFin

/-! ### Decoding -/

/-- Why a word is ILLEGAL (R252). -/
inductive Illegal where
  /-- OP is 0xB to 0xF (R88). -/
  | reservedOpcode
  /-- A bit the format requires to be 0 is 1 (R89). -/
  | reservedBits
  /-- A primitive command's opcode while DEBUG_CMDS is false (R90). -/
  | debugDisabled
  /-- Fewer than the four bytes every command has (R80, R93): asked of a byte string only, never of a word. -/
  | truncated
deriving DecidableEq, Repr

/-- The command, if the bits of `v` from `lo` up are 0, as its format requires (R82 to R85, R89). -/
def zeroFrom (lo : Nat) (v : Word) (i : Instr) : Except Illegal Instr :=
  if v >>> lo = 0 then .ok i else .error .reservedBits

/-- The gate on the primitive commands' opcodes (R90), which comes before their other bits are looked at. -/
def debugOnly (debugCmds : Bool) (r : Except Illegal Instr) : Except Illegal Instr :=
  if debugCmds then r else .error .debugDisabled

/-- `Decode(v, DEBUG_CMDS)` (R92), total, by the opcode map of R87; what R92 calls ILLEGAL is named by its cause. -/
def decode (debugCmds : Bool) (v : Word) : Except Illegal Instr :=
  match opField v with
  | 0x0 => zeroFrom 4 v .nop
  | 0x1 => zeroFrom 9 v (.init (roundsField v))
  | 0x2 => zeroFrom 4 v .setctr
  | 0x3 => zeroFrom 11 v (.gen (lenField v))
  | 0x4 => zeroFrom 11 v (.apply (lenField v))
  | 0x5 => debugOnly debugCmds
      (zeroFrom 20 v (.qr (idxField v 4) (idxField v 8) (idxField v 12) (idxField v 16)))
  | 0x6 => debugOnly debugCmds (zeroFrom 4 v .dr)
  | 0x7 => debugOnly debugCmds (zeroFrom 4 v .ldw)
  | 0x8 => debugOnly debugCmds (zeroFrom 4 v .ffw)
  | 0x9 => debugOnly debugCmds (zeroFrom 11 v (.wload (lenField v)))
  | 0xA => debugOnly debugCmds (zeroFrom 11 v (.wstore (lenField v)))
  | _ => .error .reservedOpcode

/-- Decoding the command at the head of any byte string, the first byte the least significant (R80): the command and the
bytes after it. -/
def decodeBytes (debugCmds : Bool) : List Byte → Except Illegal (Instr × List Byte)
  | b0 :: b1 :: b2 :: b3 :: rest =>
    match decode debugCmds (le32 b0 b1 b2 b3) with
    | .ok i => .ok (i, rest)
    | .error e => .error e
  | _ => .error .truncated

/-- The command read from the `nbits` low bits of `w`, the higher bits of the four bytes being 0, on the engine that
`State.reset` configures. -/
def decodeTableWord (nbits w : Nat) : Option Instr :=
  match decodeBytes Config.default.DEBUG_CMDS (bytes32 (BitVec.ofNat 32 (w % 2 ^ nbits))) with
  | .ok (i, _) => some i
  | .error _ => none

/-! ### Encoding (R82 to R85, R94) -/

/-- An index as a 4-bit field at bit `lo` (R85). -/
def idxAt (a : Idx) (lo : Nat) : Word := BitVec.ofNat 32 a.val <<< lo

/-- ROUNDS_F at bits 8:4 (R83). -/
def roundsAt (r : BitVec 5) : Word := r.setWidth 32 <<< 4

/-- LEN at bits 10:4 (R84). -/
def lenAt (l : BitVec 7) : Word := l.setWidth 32 <<< 4

/-- The command word, by the "encodes" column of R94. -/
def encode : Instr → Word
  | .nop => 0x00000000
  | .init r => roundsAt r ||| 0x1
  | .setctr => 0x00000002
  | .gen l => lenAt l ||| 0x3
  | .apply l => lenAt l ||| 0x4
  | .qr a b c d => idxAt d 16 ||| idxAt c 12 ||| idxAt b 8 ||| idxAt a 4 ||| 0x5
  | .dr => 0x00000006
  | .ldw => 0x00000007
  | .ffw => 0x00000008
  | .wload l => lenAt l ||| 0x9
  | .wstore l => lenAt l ||| 0xA

/-! ### The opcode map's match and mask (R87) -/

/-- The match column of R87. -/
def Instr.matchBits : Instr → Word
  | .nop => 0x00000000
  | .init _ => 0x00000001
  | .setctr => 0x00000002
  | .gen _ => 0x00000003
  | .apply _ => 0x00000004
  | .qr _ _ _ _ => 0x00000005
  | .dr => 0x00000006
  | .ldw => 0x00000007
  | .ffw => 0x00000008
  | .wload _ => 0x00000009
  | .wstore _ => 0x0000000A

/-- The mask column of R87. -/
def Instr.maskBits : Instr → Word
  | .nop => 0xFFFFFFFF
  | .init _ => 0xFFFFFE0F
  | .setctr => 0xFFFFFFFF
  | .gen _ => 0xFFFFF80F
  | .apply _ => 0xFFFFF80F
  | .qr _ _ _ _ => 0xFFF0000F
  | .dr => 0xFFFFFFFF
  | .ldw => 0xFFFFFFFF
  | .ffw => 0xFFFFFFFF
  | .wload _ => 0xFFFFF80F
  | .wstore _ => 0xFFFFF80F

end Sys2Proof
end

