-- ==== Sys2Proof/Machine/Operands.lean ====
section
/-! DEFINITION. Machine/Operands.lean: the operands a command takes from the port buffers (00_scope.md R9, 40_initializer.md
R111, R112, 44_counter_setter.md R220) and the checks on the operands of its word. -/

namespace Sys2Proof.Machine

/-- Byte j of a buffer. -/
def byteAt {n : Nat} (B : Vector Byte n) (j : Nat) : Byte := B[j]?.getD 0

/-- `le32at(B, j)` (R9). -/
def le32at {n : Nat} (B : Vector Byte n) (j : Nat) : Word :=
  le32 (byteAt B j) (byteAt B (j + 1)) (byteAt B (j + 2)) (byteAt B (j + 3))

/-- `le64(B, j)` (R9). -/
def le64 {n : Nat} (B : Vector Byte n) (j : Nat) : BitVec 64 :=
  BitVec.ofNat 64 ((le32at B j).toNat + 2 ^ 32 * (le32at B (j + 4)).toNat)

/-- `KeyWords(K)[i]` (R111). -/
def keyWord (K : Vector Byte 32) (i : Nat) : Word := le32at K (4 * i)

/-- `NonceWords(N)[i]` (R112). -/
def nonceWord (N : Vector Byte 8) (i : Nat) : Word := le32at N (4 * i)

/-- The 64-bit block counter of CTRBUF (R29). -/
def counterOf (s : State) : BitVec 64 := le64 s.CTRBUF 0

/-- `c[31:0]` (R220). -/
def counterLow (c : BitVec 64) : Word := c.extractLsb' 0 32

/-- `c[63:32]` (R220). -/
def counterHigh (c : BitVec 64) : Word := c.extractLsb' 32 32

/-- BAD_ROUNDS unless ROUNDS_F is 8, 12 or 20 (R254). The check is always on (R116). -/
def requireRounds (r : BitVec 5) : Option FaultCode :=
  if r = 8 ∨ r = 12 ∨ r = 20 then none else some .badRounds

/-- BAD_LENGTH unless LEN is 64 (R255). -/
def requireLength (l : BitVec 7) : Option FaultCode := if l = 64 then none else some .badLength

end Sys2Proof.Machine
end

