-- ==== Sys2Proof/Machine/Ops.lean ====
section
/-! DEFINITION. Machine/Ops.lean: the operations the commands share: the permutation on blocks, serialization, updates of
the state, taking a fault, reset, and the checked command step (30_encoding.md R96). -/

namespace Sys2Proof.Machine

/-! ### Word operations and the quarter round (00_scope.md R8, 41_quarter_round.md R130) -/

/-- `rotl(x, n)` for 0 < n < 32 (R8). -/
def rotl (x : Word) (n : Nat) : Word := x <<< n ||| x >>> (32 - n)

/-- `X[a] <- X[a] + X[b]`, modulo 2^32. -/
def addInto (a b : Idx) (X : Block) : Block := X.set a (X[a] + X[b])

/-- `X[a] <- X[a] ^ X[b]`. -/
def xorInto (a b : Idx) (X : Block) : Block := X.set a (X[a] ^^^ X[b])

/-- `X[a] <- rotl(X[a], n)`. -/
def rotlInto (a : Idx) (n : Nat) (X : Block) : Block := X.set a (rotl X[a] n)

/-- Half a quarter-round line pair: `X[a] <- X[a] + X[b]; X[d] <- X[d] ^ X[a]; X[d] <- rotl(X[d], n)`. -/
def addXorRotl (a b d : Idx) (n : Nat) (X : Block) : Block :=
  rotlInto d n (xorInto d a (addInto a b X))

/-- `QR(X, a, b, c, d)` (R130): the twelve statements in order, each reading the latest values, so that equal indices are
defined too (R133). -/
def quarterRound (a b c d : Idx) (X : Block) : Block :=
  let X := addXorRotl a b d 16 X
  let X := addXorRotl c d b 12 X
  let X := addXorRotl a b d 8 X
  addXorRotl c d b 7 X

/-- The column pass (42_double_round.md R150). -/
def columnPass (X : Block) : Block :=
  let X := quarterRound 0 4 8 12 X
  let X := quarterRound 1 5 9 13 X
  let X := quarterRound 2 6 10 14 X
  quarterRound 3 7 11 15 X

/-- The diagonal pass (R151). -/
def diagonalPass (X : Block) : Block :=
  let X := quarterRound 0 5 10 15 X
  let X := quarterRound 1 6 11 12 X
  let X := quarterRound 2 7 8 13 X
  quarterRound 3 4 9 14 X

/-- `DR(X)` (R152). -/
def doubleRound (X : Block) : Block := diagonalPass (columnPass X)

/-- n double rounds, one after the other. -/
def doubleRounds : Nat → Block → Block
  | 0, X => X
  | n + 1, X => doubleRounds n (doubleRound X)

/-- `Permute(X, r)`: the double round applied r/2 times (R153). -/
def permute (r : Nat) (X : Block) : Block := doubleRounds (r / 2) X

/-! ### The block function's parts (40_initializer.md, 43_block_generator.md) -/

/-- `InitState(K, N)` (R113), its first row the constants of R110. -/
def initState (K : Vector Byte 32) (N : Vector Byte 8) : Block :=
  #v[0x61707865, 0x3320646e, 0x79622d32, 0x6b206574,
     keyWord K 0, keyWord K 1, keyWord K 2, keyWord K 3,
     keyWord K 4, keyWord K 5, keyWord K 6, keyWord K 7,
     0, 0, nonceWord N 0, nonceWord N 1]

/-- Counter setup (44_counter_setter.md R220). -/
def counterSetup (c : BitVec 64) (X : Block) : Block := (X.set 12 (counterLow c)).set 13 (counterHigh c)

/-- Feed-forward of the pre-round snapshot S into W (R171). -/
def feedForward (S W : Block) : Block := Vector.ofFn fun i : Fin 16 => W[i] + S[i]

/-- `Serialize(W)` (R172): byte 4i + j is byte j of word i. -/
def serialize (W : Block) : Vector Byte 64 :=
  Vector.ofFn fun k : Fin 64 => byteOf (W[k.val / 4]'(by omega)) (k.val % 4)

/-- `Deserialize(B)` (R172). -/
def deserialize (B : Vector Byte 64) : Block := Vector.ofFn fun i : Fin 16 => le32at B (4 * i.val)

/-- Exclusive-or of two 64-byte buffers, byte by byte (R174). -/
def xorBytes (B K : Vector Byte 64) : Vector Byte 64 := Vector.ofFn fun k : Fin 64 => B[k] ^^^ K[k]

/-- The output words of a block whose pre-round snapshot is S: steps 2 and 3 of R170. -/
def outputWords (S : Block) (r : BitVec 5) : Block := feedForward S (permute r.toNat S)

/-! ### Updates of the state -/

/-- The state with another stored state. -/
def State.withS (s : State) (X : Block) : State := { s with S := X }

/-- The state with another working state. -/
def State.withW (s : State) (X : Block) : State := { s with W := X }

/-- The state with another data buffer. -/
def State.withDBUF (s : State) (B : Vector Byte 64) : State := { s with DBUF := B }

/-- The state with a new engine instance (R114): S, ROUNDS and KEYED. -/
def State.withInstance (s : State) (X : Block) (r : BitVec 5) : State :=
  { s with S := X, ROUNDS := r, KEYED := true }

/-- The state with the next host steps. -/
def State.withPending (s : State) (p : List HostStep) : State := { s with pending := p }

/-- The state in which one more host read has returned `v`. -/
def State.withRead (s : State) (v : Word) : State := { s with reads := v :: s.reads }

/-! ### Faults and reset -/

/-- Taking a fault with cause k for the command word v (60_exceptions.md R257): it writes FAULTED, FCODE and FAULT_CMD, and
nothing else. There is no vector and no mode. -/
def raiseFault (k : FaultCode) (v : Word) (s : State) : State :=
  { s with FAULTED := true, FCODE := k.code, FAULT_CMD := v }

/-- Reset (70_reset_and_hazards.md R290): every register and buffer zero. It is the only return from the halted state
(60_exceptions.md R260). The configuration and the host's side of the window are not the engine's registers, and stay. -/
def resetEngine (s : State) : State :=
  { State.reset with config := s.config, pending := s.pending, reads := s.reads }

/-- The checked command step for a decoded command (R96): ignored while halted (R259); the first failing check's fault,
recording the command's word; or the command's effect. -/
def issue (i : Instr) (cause : Option FaultCode) (effect : State → State) (s : State) : Result :=
  if s.FAULTED then .next s
  else match cause with
    | some k => .next (raiseFault k (encode i) s)
    | none => .next (effect s)

end Sys2Proof.Machine
end

