-- ==== Sys2Proof/Machine/BlockGenerator.lean ====
section
/-! DEFINITION. Machine/BlockGenerator.lean: GEN, APPLY, LDW, FFW, WLOAD and WSTORE (43_block_generator.md). -/

namespace Sys2Proof.Machine

/-- Counter setup and the block's output words, left in S and W: what GEN and APPLY do before they write DBUF (R170, R173,
R174). -/
def computeBlock (s : State) : State :=
  let s := s.withS (counterSetup (counterOf s) s.S)
  s.withW (outputWords s.S s.ROUNDS)

/-- GEN (R173): the keystream block overwrites DBUF. -/
def execGen (l : BitVec 7) (s : State) : Result :=
  issue (.gen l) (requireKeyed s <|> requireLength l)
    (fun s => let s := computeBlock s; s.withDBUF (serialize s.W)) s

/-- APPLY (R174): the keystream block is XORed into DBUF. -/
def execApply (l : BitVec 7) (s : State) : Result :=
  issue (.apply l) (requireKeyed s <|> requireLength l)
    (fun s => let s := computeBlock s; s.withDBUF (xorBytes s.DBUF (serialize s.W))) s

/-- LDW (R175): W takes S as it stands; no counter setup. -/
def execLdw (s : State) : Result :=
  issue .ldw (requireDebug s <|> requireKeyed s) (fun s => s.withW s.S) s

/-- FFW (R176): S is added into W, word by word. -/
def execFfw (s : State) : Result :=
  issue .ffw (requireDebug s <|> requireKeyed s) (fun s => s.withW (feedForward s.S s.W)) s

/-- WLOAD (R177): W takes the words of DBUF. -/
def execWload (l : BitVec 7) (s : State) : Result :=
  issue (.wload l) (requireDebug s <|> requireLength l) (fun s => s.withW (deserialize s.DBUF)) s

/-- WSTORE (R178): DBUF takes the bytes of W. -/
def execWstore (l : BitVec 7) (s : State) : Result :=
  issue (.wstore l) (requireDebug s <|> requireLength l) (fun s => s.withDBUF (serialize s.W)) s

end Sys2Proof.Machine
end

