-- ==== Sys2Proof/Machine/Control.lean ====
section
/-! DEFINITION. Machine/Control.lean: NOP (45_control.md). -/

namespace Sys2Proof.Machine

/-- NOP (R240): it passes the command step and writes no state. -/
def execNop (s : State) : Result := issue .nop none id s

end Sys2Proof.Machine
end

