-- ==== Sys2Proof/Machine/CounterSetter.lean ====
section
/-! DEFINITION. Machine/CounterSetter.lean: SETCTR (44_counter_setter.md). -/

namespace Sys2Proof.Machine

/-- SETCTR (R221): NOT_KEYED before the first INIT; then counter setup from CTRBUF. -/
def execSetctr (s : State) : Result :=
  issue .setctr (requireKeyed s) (fun s => s.withS (counterSetup (counterOf s) s.S)) s

end Sys2Proof.Machine
end

