-- ==== Sys2Proof/Machine/DoubleRound.lean ====
section
/-! DEFINITION. Machine/DoubleRound.lean: DR (42_double_round.md). -/

namespace Sys2Proof.Machine

/-- DR (R154): one double round on W, whatever ROUNDS holds. -/
def execDr (s : State) : Result :=
  issue .dr (requireDebug s) (fun s => s.withW (doubleRound s.W)) s

end Sys2Proof.Machine
end

