-- ==== Sys2Proof/Machine/Initializer.lean ====
section
/-! DEFINITION. Machine/Initializer.lean: INIT (40_initializer.md). -/

namespace Sys2Proof.Machine

/-- INIT (R114, R115): BAD_ROUNDS unless R is 8, 12 or 20; then S from the key and nonce ports, ROUNDS and KEYED. -/
def execInit (r : BitVec 5) (s : State) : Result :=
  issue (.init r) (requireRounds r) (fun s => s.withInstance (initState s.KEYBUF s.NONCEBUF) r) s

end Sys2Proof.Machine
end

