-- ==== Sys2Proof/Machine/QuarterRound.lean ====
section
/-! DEFINITION. Machine/QuarterRound.lean: QR (41_quarter_round.md). -/

namespace Sys2Proof.Machine

/-- QR (R132): one quarter round on W. -/
def execQr (a b c d : Idx) (s : State) : Result :=
  issue (.qr a b c d) (requireDebug s) (fun s => s.withW (quarterRound a b c d s.W)) s

end Sys2Proof.Machine
end

