-- ==== Sys2Proof/Machine/Dispatch.lean ====
section
/-! DEFINITION. Machine/Dispatch.lean: the meaning of every command. -/

namespace Sys2Proof.Machine

def exec (i : Instr) (s : State) : Host.Outcome State Fault Refusal :=
  match i with
  | .nop => Sys2Proof.Machine.execNop s
  | .init rounds => Sys2Proof.Machine.execInit rounds s
  | .setctr => Sys2Proof.Machine.execSetctr s
  | .gen len => Sys2Proof.Machine.execGen len s
  | .apply len => Sys2Proof.Machine.execApply len s
  | .qr a b c d => Sys2Proof.Machine.execQr a b c d s
  | .dr => Sys2Proof.Machine.execDr s
  | .ldw => Sys2Proof.Machine.execLdw s
  | .ffw => Sys2Proof.Machine.execFfw s
  | .wload len => Sys2Proof.Machine.execWload len s
  | .wstore len => Sys2Proof.Machine.execWstore len s

end Sys2Proof.Machine
end

