-- ==== Sys2Proof/Machine/Window.lean ====
section
/-! DEFINITION. Machine/Window.lean: the 256-byte register window, byte by byte (20_memory.md R50 to R59). -/

namespace Sys2Proof.Machine

/-- The rows of the register map (R51). -/
inductive Port where
  | cmd | status | faultCmd | reserved | ctrbuf | noncebuf | keybuf | dbuf
deriving DecidableEq, Repr

/-- The row an offset of the window is in (R51). -/
def portAt (off : Nat) : Port :=
  if off < 0x04 then .cmd
  else if off < 0x08 then .status
  else if off < 0x0C then .faultCmd
  else if off < 0x10 then .reserved
  else if off < 0x18 then .ctrbuf
  else if off < 0x20 then .noncebuf
  else if off < 0x40 then .keybuf
  else if off < 0x80 then .dbuf
  else .reserved

/-- The byte a host read of the offset returns (the "host read" column of R51): CMD and the reserved offsets read 0 (R55,
R59), and so do the write-only ports KEYBUF and NONCEBUF (R56). -/
def readByte (s : State) (off : Nat) : Byte :=
  match portAt off with
  | .cmd => 0
  | .status => byteOf (statusWord s) (off - 0x04)
  | .faultCmd => byteOf s.FAULT_CMD (off - 0x08)
  | .reserved => 0
  | .ctrbuf => byteAt s.CTRBUF (off - 0x10)
  | .noncebuf => 0
  | .keybuf => 0
  | .dbuf => byteAt s.DBUF (off - 0x40)

/-- A host write of one byte (the "host write" column of R51): CMD ignores every write but the 32-bit one, which `command`
runs (R59); STATUS, FAULT_CMD and the reserved offsets ignore writes (R55, R58). -/
def writeByte (off : Nat) (b : Byte) (s : State) : State :=
  match portAt off with
  | .cmd => s
  | .status => s
  | .faultCmd => s
  | .reserved => s
  | .ctrbuf => { s with CTRBUF := s.CTRBUF.setIfInBounds (off - 0x10) b }
  | .noncebuf => { s with NONCEBUF := s.NONCEBUF.setIfInBounds (off - 0x18) b }
  | .keybuf => { s with KEYBUF := s.KEYBUF.setIfInBounds (off - 0x20) b }
  | .dbuf => { s with DBUF := s.DBUF.setIfInBounds (off - 0x40) b }

/-- The sum over k < n of (byte read at off + k) * 256^k (R53). -/
def readSum (s : State) (off : Nat) : Nat → Nat
  | 0 => 0
  | n + 1 => readSum s off n + (readByte s (off + n)).toNat * 256 ^ n

/-- The value a host read of n bytes returns (R53). -/
def readBytes (s : State) (off n : Nat) : Word := BitVec.ofNat 32 (readSum s off n)

/-- A host write of n bytes of v: the byte writes of k = 0, ..., n - 1 in that order (R53). -/
def writeBytes (off : Nat) (v : Word) : Nat → State → State
  | 0, s => s
  | n + 1, s => writeByte (off + n) (byteOf v n) (writeBytes off v n s)

end Sys2Proof.Machine
end

