-- ==== Sys2Proof/Machine/Access.lean ====
section
/-! DEFINITION. Machine/Access.lean: what one host access does (20_memory.md R53 to R62, R70), the command step that a
32-bit write to CMD performs (30_encoding.md R96) among it. -/

namespace Sys2Proof.Machine

/-- `ExecCommand(v)` (R96): ignored while halted; ILLEGAL_CMD for a word that does not decode; else the command, which makes
its remaining checks itself. -/
def command (v : Word) (s : State) : Result :=
  if s.FAULTED then .next s
  else match decode s.config.DEBUG_CMDS v with
    | .ok i => exec i s
    | .error _ => .next (raiseFault .illegalCmd v s)

/-- A write access at an offset of the window: the 32-bit write at 0x00 runs a command (R59), any other one stores its
bytes (R53). -/
def writeAccess (off n : Nat) (v : Word) (s : State) : Result :=
  if off = 0x00 ∧ n = 4 then command v s else .next (writeBytes off v n s)

/-- A read access at an offset of the window. It changes no engine state (R61); the host gets the value (R70). -/
def readAccess (off n : Nat) (s : State) : Result := .next (s.withRead (readBytes s off n))

/-- An access of n bytes at a host address: what `act` does at its offset, if the address is in the window (R50, R69), n is
1, 2 or 4, and the offset is a multiple of n (R54). -/
def onWindow (s : State) (addr n : Nat) (act : Nat → Result) : Result :=
  if addr < s.config.ENGINE_BASE ∨ s.config.ENGINE_BASE + 256 ≤ addr then .fault (.outsideWindow addr)
  else if ¬(n = 1 ∨ n = 2 ∨ n = 4) then .refused (.unsupportedWidth n)
  else if (addr - s.config.ENGINE_BASE) % n ≠ 0 then
    .refused (.misalignedAccess (addr - s.config.ENGINE_BASE) n)
  else act (addr - s.config.ENGINE_BASE)

/-- One step of the host, completed before the next begins (R60, R62). -/
def hostStep (a : HostStep) (s : State) : Result :=
  match a with
  | .read addr n => onWindow s addr n fun off => readAccess off n s
  | .write addr n v => onWindow s addr n fun off => writeAccess off n v s
  | .reset => .next (resetEngine s)

/-- The host's next step, taken off `pending`; with nothing pending the engine is idle and holds its state (R267, R292). -/
def nextHostStep (s : State) : Result :=
  match s.pending with
  | [] => .next s
  | a :: rest => hostStep a (s.withPending rest)

/-- The host step that issues the command word v to the engine of s. -/
def issueWord (s : State) (v : Word) : HostStep := .write s.config.ENGINE_BASE 4 v

end Sys2Proof.Machine
end

