-- ==== Sys2Proof/Machine/Step.lean ====
section
/-! DEFINITION. Machine/Step.lean: one step of the machine, and how a command word is presented to it. -/

namespace Sys2Proof.Machine

/-- One step: the host's next step, run to its end (20_memory.md R60, R62). -/
def step (s : State) : Host.Outcome State Fault Refusal := nextHostStep s

/-- The engine fetches no commands (10_state.md R31, 20_memory.md R65): a command runs because the host writes it to CMD. So
the word's `nbits` low bits (the rest of its 32 zero) are put, as a 32-bit write to CMD, before everything the host has
pending (log entry 7). -/
def State.withFetchWord (s : State) (nbits w : Nat) : State :=
  s.withPending (issueWord s (BitVec.ofNat 32 (w % 2 ^ nbits)) :: s.pending)

end Sys2Proof.Machine
end

