-- ==== Sys2Proof/Machine/Assembler.lean ====
section
/-! DEFINITION. Machine/Assembler.lean: the assembler's lines (30_encoding.md R94) and the host-level operations and
pseudo-instructions (R95): notation over command words and host steps. Text is a list of characters. -/

namespace Sys2Proof.Machine

/-! ### Lines and what they stand for -/

/-- A line of R94. Operands are the numbers written; `none` is an operand left out. -/
inductive AsmLine where
  | nop | init (r : Nat) | setctr | gen (l : Option Nat) | apply (l : Option Nat) | qr (a b c d : Nat)
  | dr | ldw | ffw | wload (l : Option Nat) | wstore (l : Option Nat)
  /-- The `.word v` directive, which issues the raw word. -/
  | word (v : Nat)
deriving DecidableEq, Repr

/-- A number that fits the field, or an assembler error (R94). -/
def inField (bound n : Nat) : Option Nat := if n < bound then some n else none

/-- The buffer length of an L-format line: 64 when it is left out (R94). -/
def lengthOperand (l : Option Nat) : Option (BitVec 7) := (inField 128 (l.getD 64)).map (BitVec.ofNat 7)

/-- An index of a `qr` line (R94). -/
def indexOperand (n : Nat) : Option Idx := if h : n < 16 then some ⟨n, h⟩ else none

/-- The command a line stands for; `none` for an operand outside its field's range and for `.word` (R94). -/
def AsmLine.instr : AsmLine → Option Instr
  | .nop => some .nop
  | .init r => (inField 32 r).map fun r => .init (BitVec.ofNat 5 r)
  | .setctr => some .setctr
  | .gen l => (lengthOperand l).map .gen
  | .apply l => (lengthOperand l).map .apply
  | .qr a b c d =>
    match indexOperand a, indexOperand b, indexOperand c, indexOperand d with
    | some a, some b, some c, some d => some (.qr a b c d)
    | _, _, _, _ => none
  | .dr => some .dr
  | .ldw => some .ldw
  | .ffw => some .ffw
  | .wload l => (lengthOperand l).map .wload
  | .wstore l => (lengthOperand l).map .wstore
  | .word _ => none

/-- The word a line assembles to; `none` is an assembler error, and then no word is produced (R94). -/
def assemble : AsmLine → Option Word
  | .word v => (inField (2 ^ 32) v).map (BitVec.ofNat 32)
  | line => line.instr.map encode

/-- The host-level operations of R95. -/
inductive HostOp where
  | wr8 (off v : Nat) | wr16 (off v : Nat) | wr32 (off v : Nat)
  | rd8 (off : Nat) | rd16 (off : Nat) | rd32 (off : Nat)
  | line (l : AsmLine)
  | setkey (w0 w1 w2 w3 w4 w5 w6 w7 : Nat)
  | setnonce (w0 w1 : Nat)
  | setctr64 (c : Nat)
  | setbuf (ws : List Nat)
  | permute (r : Nat)
  | block (r : Nat)
  | rdstatus
  | reset
deriving DecidableEq, Repr

/-- `MemWrite(off, n, v)` on the window at `base` (R95); the value must fit the width. -/
def memWrite (base off n v : Nat) : Option (List HostStep) :=
  (inField (256 ^ n) v).map fun v => [.write (base + off) n (BitVec.ofNat 32 v)]

/-- `MemRead(off, n)` on the window at `base` (R95). -/
def memRead (base off n : Nat) : List HostStep := [.read (base + off) n]

/-- 32-bit writes of consecutive words from `off` up. -/
def wordWrites (base : Nat) : Nat → List Nat → Option (List HostStep)
  | _, [] => some []
  | off, w :: ws =>
    match memWrite base off 4 w, wordWrites base (off + 4) ws with
    | some a, some b => some (a ++ b)
    | _, _ => none

/-- A write of the command word v to CMD (R95). -/
def commandWrite (base : Nat) (v : Word) : HostStep := .write (base + 0x00) 4 v

/-- `permute R`: `dr` repeated R/2 times, R even (R95). -/
def permuteWrites (base r : Nat) : Option (List HostStep) :=
  if r % 2 = 0 then some (List.replicate (r / 2) (commandWrite base (encode .dr))) else none

/-- The expansion column of R95: the host steps an operation stands for on the window at `base`. -/
def HostOp.expand (base : Nat) : HostOp → Option (List HostStep)
  | .wr8 off v => memWrite base off 1 v
  | .wr16 off v => memWrite base off 2 v
  | .wr32 off v => memWrite base off 4 v
  | .rd8 off => some (memRead base off 1)
  | .rd16 off => some (memRead base off 2)
  | .rd32 off => some (memRead base off 4)
  | .line l => (assemble l).map fun v => [commandWrite base v]
  | .setkey w0 w1 w2 w3 w4 w5 w6 w7 => wordWrites base 0x20 [w0, w1, w2, w3, w4, w5, w6, w7]
  | .setnonce w0 w1 => wordWrites base 0x18 [w0, w1]
  | .setctr64 c =>
    if c < 2 ^ 64 then wordWrites base 0x10 [c % 2 ^ 32, c / 2 ^ 32] else none
  | .setbuf ws => if ws.length = 16 then wordWrites base 0x40 ws else none
  | .permute r => permuteWrites base r
  | .block r =>
    (permuteWrites base r).map fun ds =>
      commandWrite base (encode .ldw) :: ds ++ [commandWrite base (encode .ffw)]
  | .rdstatus => some (memRead base 0x04 4)
  | .reset => some [.reset]

/-- The host steps of a program; `none` if one of its lines is an error. -/
def expandProgram (base : Nat) : List HostOp → Option (List HostStep)
  | [] => some []
  | op :: ops =>
    match op.expand base, expandProgram base ops with
    | some a, some b => some (a ++ b)
    | _, _ => none

/-! ### Reading a line's text (R94) -/

/-- Blanks around and between the parts of a line. -/
def isBlank (c : Char) : Bool := c = ' ' || c = '\t'

/-- The characters without blanks at either end. -/
def trimBlanks (cs : List Char) : List Char := ((cs.dropWhile isBlank).reverse.dropWhile isBlank).reverse

/-- The value of a digit, decimal or hexadecimal. -/
def digitValue (c : Char) : Option Nat :=
  if '0' ≤ c ∧ c ≤ '9' then some (c.toNat - '0'.toNat)
  else if 'a' ≤ c ∧ c ≤ 'f' then some (c.toNat - 'a'.toNat + 10)
  else if 'A' ≤ c ∧ c ≤ 'F' then some (c.toNat - 'A'.toNat + 10)
  else none

/-- The number a run of digits writes in a base, from the left, after `acc`. -/
def digitsValue (base acc : Nat) : List Char → Option Nat
  | [] => some acc
  | c :: cs =>
    match digitValue c with
    | some d => if d < base then digitsValue base (base * acc + d) cs else none
    | none => none

/-- An operand: decimal, or hexadecimal after `0x` (R94). -/
def parseNumber : List Char → Option Nat
  | [] => none
  | '0' :: 'x' :: c :: cs => digitsValue 16 0 (c :: cs)
  | c :: cs => digitsValue 10 0 (c :: cs)

/-- The parts of a text between its commas. -/
def splitCommas : List Char → List (List Char)
  | [] => [[]]
  | c :: cs =>
    if c = ',' then [] :: splitCommas cs
    else match splitCommas cs with
      | part :: parts => (c :: part) :: parts
      | [] => [[c]]

/-- The operands of a line, separated by commas (R94). -/
def parseOperands (cs : List Char) : Option (List Nat) :=
  if cs = [] then some [] else (splitCommas cs).mapM fun part => parseNumber (trimBlanks part)

/-- The operation of a mnemonic, in lower case, and its operands (R94, R95); `none` if there is none. -/
def hostOpOf (mnemonic : List Char) (operands : List Nat) : Option HostOp :=
  match mnemonic, operands with
  | ['n', 'o', 'p'], [] => some (.line .nop)
  | ['i', 'n', 'i', 't'], [r] => some (.line (.init r))
  | ['s', 'e', 't', 'c', 't', 'r'], [] => some (.line .setctr)
  | ['g', 'e', 'n'], [] => some (.line (.gen none))
  | ['g', 'e', 'n'], [l] => some (.line (.gen (some l)))
  | ['a', 'p', 'p', 'l', 'y'], [] => some (.line (.apply none))
  | ['a', 'p', 'p', 'l', 'y'], [l] => some (.line (.apply (some l)))
  | ['q', 'r'], [a, b, c, d] => some (.line (.qr a b c d))
  | ['d', 'r'], [] => some (.line .dr)
  | ['l', 'd', 'w'], [] => some (.line .ldw)
  | ['f', 'f', 'w'], [] => some (.line .ffw)
  | ['w', 'l', 'o', 'a', 'd'], [] => some (.line (.wload none))
  | ['w', 'l', 'o', 'a', 'd'], [l] => some (.line (.wload (some l)))
  | ['w', 's', 't', 'o', 'r', 'e'], [] => some (.line (.wstore none))
  | ['w', 's', 't', 'o', 'r', 'e'], [l] => some (.line (.wstore (some l)))
  | ['.', 'w', 'o', 'r', 'd'], [v] => some (.line (.word v))
  | ['w', 'r', '8'], [off, b] => some (.wr8 off b)
  | ['w', 'r', '1', '6'], [off, h] => some (.wr16 off h)
  | ['w', 'r', '3', '2'], [off, w] => some (.wr32 off w)
  | ['r', 'd', '8'], [off] => some (.rd8 off)
  | ['r', 'd', '1', '6'], [off] => some (.rd16 off)
  | ['r', 'd', '3', '2'], [off] => some (.rd32 off)
  | ['s', 'e', 't', 'k', 'e', 'y'], [w0, w1, w2, w3, w4, w5, w6, w7] =>
    some (.setkey w0 w1 w2 w3 w4 w5 w6 w7)
  | ['s', 'e', 't', 'n', 'o', 'n', 'c', 'e'], [w0, w1] => some (.setnonce w0 w1)
  | ['s', 'e', 't', 'c', 't', 'r', '6', '4'], [c] => some (.setctr64 c)
  | ['s', 'e', 't', 'b', 'u', 'f'], ws => some (.setbuf ws)
  | ['p', 'e', 'r', 'm', 'u', 't', 'e'], [r] => some (.permute r)
  | ['b', 'l', 'o', 'c', 'k'], [r] => some (.block r)
  | ['r', 'd', 's', 't', 'a', 't', 'u', 's'], [] => some .rdstatus
  | ['r', 'e', 's', 'e', 't'], [] => some .reset
  | _, _ => none

/-- One line of text: a mnemonic and its operands (R94). -/
def parseLine (cs : List Char) : Option HostOp :=
  let cs := trimBlanks cs
  let mnemonic := cs.takeWhile fun c => !isBlank c
  match parseOperands (trimBlanks (cs.dropWhile fun c => !isBlank c)) with
  | some operands => hostOpOf mnemonic operands
  | none => none

end Sys2Proof.Machine
end

