-- ==== Sys2Proof/Machine/Timing.lean ====
section
/-! DEFINITION. Machine/Timing.lean: how long a command holds the bus (70_reset_and_hazards.md R296). No step reads it. -/

namespace Sys2Proof.Machine

/-- Whether a command's outcome is a halted engine: it has faulted, or it was ignored because the engine was halted. -/
def endsHalted : Result → Bool
  | .next t => t.FAULTED
  | .fault _ => true
  | .refused _ => true

/-- The cycles the command word v holds the bus when it is written in state s: `CMD_CYCLES(v, ROUNDS)`, or for a faulting or
ignored command a function of v, ROUNDS, KEYED and FAULTED; in both cases positive (R296). -/
def busCycles (v : Word) (s : State) : Nat :=
  if endsHalted (command v s) then Config.faultCyclesLessOne v s.ROUNDS s.KEYED s.FAULTED + 1
  else Config.cmdCyclesLessOne v s.ROUNDS + 1

end Sys2Proof.Machine
end

