-- ==== Sys2Proof/Safety.lean ====
section
/-! DEFINITION. Safety.lean: the terms claims use: what a fault's cause is, what a reachable state looks like, which host
steps keep the interface contract, what a host can see, and sequences of commands. -/

namespace Sys2Proof.Machine

/-! ### Causes of faults, by their priority (60_exceptions.md R251 to R256) -/

/-- The "requires KEYED" column of R87. -/
def requiresInstance : Instr → Bool
  | .nop => false
  | .init _ => false
  | .setctr => true
  | .gen _ => true
  | .apply _ => true
  | .qr _ _ _ _ => false
  | .dr => false
  | .ldw => true
  | .ffw => true
  | .wload _ => false
  | .wstore _ => false

/-- The operand's own cause: BAD_ROUNDS (R254) or BAD_LENGTH (R255). -/
def operandCause : Instr → Option FaultCode
  | .nop => none
  | .init r => if r.toNat ∈ [8, 12, 20] then none else some .badRounds
  | .setctr => none
  | .gen l => if l.toNat = 64 then none else some .badLength
  | .apply l => if l.toNat = 64 then none else some .badLength
  | .qr _ _ _ _ => none
  | .dr => none
  | .ldw => none
  | .ffw => none
  | .wload l => if l.toNat = 64 then none else some .badLength
  | .wstore l => if l.toNat = 64 then none else some .badLength

/-- The one fault a command word raises on an engine that is not halted (R256): ILLEGAL_CMD before NOT_KEYED before the
operand's cause. It is a function of DEBUG_CMDS, KEYED and the word alone. -/
def wordCause (debugCmds keyed : Bool) (v : Word) : Option FaultCode :=
  match decode debugCmds v with
  | .error _ => some .illegalCmd
  | .ok i => if requiresInstance i && !keyed then some .notKeyed else operandCause i

/-! ### The invariant of reachable states -/

/-- What S and ROUNDS hold (10_state.md R22, R24, R25): with an engine instance, the constant words in S[0..3] and a round
count of the closed set; without one, what reset left. -/
def instanceOk (s : State) : Prop :=
  if s.KEYED then
    s.S[0] = 0x61707865 ∧ s.S[1] = 0x3320646e ∧ s.S[2] = 0x79622d32 ∧ s.S[3] = 0x6b206574 ∧
      (s.ROUNDS = 8 ∨ s.ROUNDS = 12 ∨ s.ROUNDS = 20)
  else s.S = Vector.replicate 16 0 ∧ s.ROUNDS = 0

/-- What the fault registers hold (R26, R251, R257): in the halted state, a word and the code of the fault that word raises;
otherwise zeros. -/
def faultOk (s : State) : Prop :=
  if s.FAULTED then ∃ k, wordCause s.config.DEBUG_CMDS s.KEYED s.FAULT_CMD = some k ∧ s.FCODE = k.code
  else s.FCODE = 0 ∧ s.FAULT_CMD = 0

/-- The invariant that reset establishes and every step keeps. -/
def StateInv (s : State) : Prop := instanceOk s ∧ faultOk s

/-! ### The interface contract (20_memory.md R54, R69, R70) -/

/-- An access of n bytes at an address that keeps the contract: in the window, of width 1, 2 or 4, naturally aligned. -/
abbrev inContract (c : Config) (addr n : Nat) : Prop :=
  c.ENGINE_BASE ≤ addr ∧ addr < c.ENGINE_BASE + 256 ∧ (n = 1 ∨ n = 2 ∨ n = 4) ∧ (addr - c.ENGINE_BASE) % n = 0

/-- A host step that keeps the contract; reset always does. -/
def conforming (c : Config) : HostStep → Prop
  | .read addr n => inContract c addr n
  | .write addr n _ => inContract c addr n
  | .reset => True

/-- A state whose next step is taken: the host has nothing pending, or its next step keeps the contract. -/
def safeState (s : State) : Prop := ∀ a rest, s.pending = a :: rest → conforming s.config a

/-! ### What a host can see (10_state.md R35) -/

/-- Everything a host can tell two states apart by, through reads of the window, and its own side of it. S, W, KEYBUF and
NONCEBUF are not among it. -/
structure HostView where
  status : Word
  faultCmd : Word
  ctrbuf : Vector Byte 8
  dbuf : Vector Byte 64
  config : Config
  pending : List HostStep
  reads : List Word
deriving DecidableEq, Repr

/-- The host's view of a state. -/
def hostView (s : State) : HostView where
  status := statusWord s
  faultCmd := s.FAULT_CMD
  ctrbuf := s.CTRBUF
  dbuf := s.DBUF
  config := s.config
  pending := s.pending
  reads := s.reads

/-! ### Sequences of commands and of steps -/

/-- The commands one after the other. -/
def execSeq : List Instr → State → Result
  | [], s => .next s
  | i :: is, s =>
    match exec i s with
    | .next t => execSeq is t
    | .fault r => .fault r
    | .refused r => .refused r

/-- n steps of the machine, stopping at the first fault or refusal. -/
def runSteps : Nat → State → Result
  | 0, s => .next s
  | n + 1, s =>
    match step s with
    | .next t => runSteps n t
    | .fault r => .fault r
    | .refused r => .refused r

/-- An engine that is not halted. -/
abbrev running (s : State) : Prop := s.FAULTED = false

/-- A running engine with an engine instance: GEN 64 and APPLY 64 complete on it (70_reset_and_hazards.md R293). -/
abbrev keyedUp (s : State) : Prop := s.FAULTED = false ∧ s.KEYED = true

/-- A running engine that decodes the primitive commands. -/
abbrev debugUp (s : State) : Prop := s.FAULTED = false ∧ s.config.DEBUG_CMDS = true

end Sys2Proof.Machine
end

