-- ==== Sys2Proof/Certificates/Slice0/Obligations.lean ====
section
/-! DEFINITION. Certificates/Slice0/Obligations.lean: the statements about this machine, from the numbered rules of spec/. -/

open Sys2Proof Sys2Proof.Machine

namespace Sys2Proof.Claims

/-- The number four consecutive bytes of a buffer give, the first the least significant (R9). -/
def fourBytes {n : Nat} (B : Vector Byte n) (j : Nat) (h : j + 3 < n) : Nat :=
  B[j].toNat + 256 * B[j + 1].toNat + 65536 * B[j + 2].toNat + 16777216 * B[j + 3].toNat

/-- The 64-bit number CTRBUF holds, its first byte the least significant (R29). -/
def counterNumber (s : State) : Nat :=
  fourBytes s.CTRBUF 0 (by omega) + 2 ^ 32 * fourBytes s.CTRBUF 4 (by omega)

/-- Two words of S that hold the number of CTRBUF, low word first (R220). -/
def holdsCounter (s : State) (low high : Word) : Prop :=
  low.toNat + 2 ^ 32 * high.toNat = counterNumber s

/-- The assignment `X[k] <- v` takes X to Y. -/
def assigned (X : Block) (k : Idx) (v : Word) (Y : Block) : Prop :=
  ∀ i : Idx, Y[i] = if i = k then v else X[i]

/-- Four different indices. -/
def distinct (a b c d : Idx) : Prop := a ≠ b ∧ a ≠ c ∧ a ≠ d ∧ b ≠ c ∧ b ≠ d ∧ c ≠ d

/-- The engine after taking the fault with this code for the command word v: three registers written, all else as it was. -/
def halted (s : State) (code : BitVec 4) (v : Word) : State :=
  { s with FAULTED := true, FCODE := code, FAULT_CMD := v }

/-- Every byte of the window outside [lo, hi) reads in t as in s. -/
def windowSame (lo hi : Nat) (s t : State) : Prop :=
  ∀ off < 256, ¬(lo ≤ off ∧ off < hi) → readByte t off = readByte s off

/-- The four quarter rounds of the column pass (R150). -/
def columnRounds : List Instr := [.qr 0 4 8 12, .qr 1 5 9 13, .qr 2 6 10 14, .qr 3 7 11 15]

/-- The four quarter rounds of the diagonal pass (R151). -/
def diagonalRounds : List Instr := [.qr 0 5 10 15, .qr 1 6 11 12, .qr 2 7 8 13, .qr 3 4 9 14]

end Sys2Proof.Claims

open Sys2Proof.Claims

/-! ### Encoding -/

/-- The canonical words of R87 and of the rules' worked examples decode to the commands they stand for. -/
def Obligations.SpecWordsDecode : Prop :=
  decode true 0x00000000 = .ok .nop ∧ decode true 0x00000081 = .ok (.init 8) ∧
  decode true 0x000000C1 = .ok (.init 12) ∧ decode true 0x00000141 = .ok (.init 20) ∧
  decode true 0x00000002 = .ok .setctr ∧ decode true 0x00000403 = .ok (.gen 64) ∧
  decode true 0x00000404 = .ok (.apply 64) ∧ decode true 0x000C8405 = .ok (.qr 0 4 8 12) ∧
  decode true 0x000D8725 = .ok (.qr 2 7 8 13) ∧ decode true 0x00000006 = .ok .dr ∧
  decode true 0x00000007 = .ok .ldw ∧ decode true 0x00000008 = .ok .ffw ∧
  decode true 0x00000409 = .ok (.wload 64) ∧ decode true 0x0000040A = .ok (.wstore 64)

/-- Decoding an encoded command of the engine gives it back, with every operand at every value. -/
def Obligations.DecodeOfEncode : Prop :=
  ∀ (debugCmds : Bool) (i : Instr), WellFormed debugCmds i = true → decode debugCmds (encode i) = .ok i

/-- A word that decodes is the encoding of what it decodes to, which is a command of the engine. -/
def Obligations.EncodeOfDecode : Prop :=
  ∀ (debugCmds : Bool) (v : Word) (i : Instr), decode debugCmds v = .ok i →
    encode i = v ∧ WellFormed debugCmds i = true

/-- R92: the decoder is the chain of tests the rule writes out. -/
def Obligations.DecodeIsTheChainOfTests : Prop :=
  ∀ (debugCmds : Bool) (v : Word),
    (decode debugCmds v).toOption =
    let op : BitVec 4 := v.extractLsb' 0 4
    if op = 0x0 ∧ v.extractLsb' 4 28 = 0 then some .nop
    else if op = 0x1 ∧ v.extractLsb' 9 23 = 0 then some (.init (v.extractLsb' 4 5))
    else if op = 0x2 ∧ v.extractLsb' 4 28 = 0 then some .setctr
    else if op = 0x3 ∧ v.extractLsb' 11 21 = 0 then some (.gen (v.extractLsb' 4 7))
    else if op = 0x4 ∧ v.extractLsb' 11 21 = 0 then some (.apply (v.extractLsb' 4 7))
    else if debugCmds = true ∧ op = 0x5 ∧ v.extractLsb' 20 12 = 0 then
      some (.qr (v.extractLsb' 4 4).toFin (v.extractLsb' 8 4).toFin (v.extractLsb' 12 4).toFin
        (v.extractLsb' 16 4).toFin)
    else if debugCmds = true ∧ op = 0x6 ∧ v.extractLsb' 4 28 = 0 then some .dr
    else if debugCmds = true ∧ op = 0x7 ∧ v.extractLsb' 4 28 = 0 then some .ldw
    else if debugCmds = true ∧ op = 0x8 ∧ v.extractLsb' 4 28 = 0 then some .ffw
    else if debugCmds = true ∧ op = 0x9 ∧ v.extractLsb' 11 21 = 0 then some (.wload (v.extractLsb' 4 7))
    else if debugCmds = true ∧ op = 0xA ∧ v.extractLsb' 11 21 = 0 then some (.wstore (v.extractLsb' 4 7))
    else none

/-- The assembler's lines produce the words of R94's "encodes" column, and no word for an operand outside its field. -/
def Obligations.AssemblerProducesTheEncodedWords : Prop :=
  assemble .nop = some 0x00000000 ∧ assemble .setctr = some 0x00000002 ∧
  assemble .dr = some 0x00000006 ∧ assemble .ldw = some 0x00000007 ∧ assemble .ffw = some 0x00000008 ∧
  (∀ r, assemble (.init r) = if r < 32 then some (BitVec.ofNat 32 (r <<< 4 ||| 0x1)) else none) ∧
  (∀ l, assemble (.gen (some l)) = if l < 128 then some (BitVec.ofNat 32 (l <<< 4 ||| 0x3)) else none) ∧
  (∀ l, assemble (.apply (some l)) = if l < 128 then some (BitVec.ofNat 32 (l <<< 4 ||| 0x4)) else none) ∧
  (∀ l, assemble (.wload (some l)) = if l < 128 then some (BitVec.ofNat 32 (l <<< 4 ||| 0x9)) else none) ∧
  (∀ l, assemble (.wstore (some l)) = if l < 128 then some (BitVec.ofNat 32 (l <<< 4 ||| 0xA)) else none) ∧
  (∀ a b c d, assemble (.qr a b c d) = if a < 16 ∧ b < 16 ∧ c < 16 ∧ d < 16 then
    some (BitVec.ofNat 32 (d <<< 16 ||| c <<< 12 ||| b <<< 8 ||| a <<< 4 ||| 0x5)) else none) ∧
  assemble (.gen none) = assemble (.gen (some 64)) ∧ assemble (.apply none) = assemble (.apply (some 64)) ∧
  assemble (.wload none) = assemble (.wload (some 64)) ∧ assemble (.wstore none) = assemble (.wstore (some 64)) ∧
  (∀ v : Word, assemble (.word v.toNat) = some v)

/-! ### The command step -/

/-- A step whose host step writes a word to CMD runs the command the word decodes to, and so does a step after
`withFetchWord`; the step takes the host step off `pending` and adds nothing else. -/
def Obligations.StepRunsDecodedCommand : Prop :=
  ∀ (s : State) (v : Word) (i : Instr), decode s.config.DEBUG_CMDS v = .ok i →
    (∀ rest, s.pending = .write s.config.ENGINE_BASE 4 v :: rest → step s = exec i { s with pending := rest }) ∧
    step (s.withFetchWord 32 v.toNat) = exec i s

/-- No command stops the machine: whatever the state and the operands, `exec` answers a next state, which is the same state
on a halted engine and records the command's own word on a fault. -/
def Obligations.EveryCommandAnswersNext : Prop :=
  ∀ (i : Instr) (s : State), ∃ t, exec i s = .next t ∧ (s.FAULTED = true → t = s) ∧
    (s.FAULTED = false → t.FAULTED = true → t.FAULT_CMD = encode i)

/-- R256: a command raises exactly one fault, the first in the order halted, ILLEGAL_CMD, NOT_KEYED, operand. The rule's two
examples are among the clauses. -/
def Obligations.FirstCauseWins : Prop :=
  (∀ (s : State) (v : Word), s.FAULTED = true → command v s = .next s) ∧
  (∀ (s : State) (v : Word), running s → (∀ i, decode s.config.DEBUG_CMDS v ≠ .ok i) →
    command v s = .next (halted s 0x1 v)) ∧
  (∀ (s : State) (v : Word) (i : Instr), running s → decode s.config.DEBUG_CMDS v = .ok i →
    (requiresInstance i = true → s.KEYED = false → command v s = .next (halted s 0x4 v)) ∧
    ((requiresInstance i = false ∨ s.KEYED = true) →
      (operandCause i = some .badRounds → command v s = .next (halted s 0x2 v)) ∧
      (operandCause i = some .badLength → command v s = .next (halted s 0x3 v)) ∧
      (operandCause i = none → ∃ t, command v s = .next t ∧ t.FAULTED = false)) ∧
    operandCause i ≠ some .illegalCmd ∧ operandCause i ≠ some .notKeyed) ∧
  command 0x00000413 State.reset = .next (halted State.reset 0x4 0x00000413) ∧
  (∀ s : State, running s → command 0x00000C03 s = .next (halted s 0x1 0x00000C03))

/-- R257, R258: a faulting command writes the three fault registers, the code of R251 and its own word, and nothing else. -/
def Obligations.FaultsArePrecise : Prop :=
  ∀ (s t : State) (v : Word), running s → command v s = .next t → t.FAULTED = true →
    ∃ code : BitVec 4, (code = 0x1 ∨ code = 0x2 ∨ code = 0x3 ∨ code = 0x4) ∧
      t = { s with FAULTED := true, FCODE := code, FAULT_CMD := v }

/-- R252: ILLEGAL_CMD is raised exactly for a reserved opcode, a 1 in a bit the format requires to be 0, or a primitive
command's opcode while DEBUG_CMDS is false. -/
def Obligations.IllegalWordsExactly : Prop :=
  ∀ (s : State) (v : Word), running s →
    (command v s = .next (halted s 0x1 v) ↔
      (0xB ≤ v.toNat % 16 ∨
        (v.toNat % 16 ∈ [0x0, 0x2, 0x6, 0x7, 0x8] ∧ v.extractLsb' 4 28 ≠ 0) ∨
        (v.toNat % 16 = 0x1 ∧ v.extractLsb' 9 23 ≠ 0) ∨
        (v.toNat % 16 ∈ [0x3, 0x4, 0x9, 0xA] ∧ v.extractLsb' 11 21 ≠ 0) ∨
        (v.toNat % 16 = 0x5 ∧ v.extractLsb' 20 12 ≠ 0) ∨
        (5 ≤ v.toNat % 16 ∧ v.toNat % 16 ≤ 0xA ∧ s.config.DEBUG_CMDS = false)))

/-- R253: the commands that need an engine instance raise NOT_KEYED without one, and never with one. -/
def Obligations.NotKeyedWithoutInstance : Prop :=
  (∀ (s : State) (i : Instr), running s → s.KEYED = false →
    (i = .setctr ∨ (∃ l, i = .gen l) ∨ (∃ l, i = .apply l) ∨
      ((i = .ldw ∨ i = .ffw) ∧ s.config.DEBUG_CMDS = true)) →
    exec i s = .next (halted s 0x4 (encode i))) ∧
  (∀ (s t : State) (i : Instr), running s → s.KEYED = true → exec i s = .next t → t.FAULTED = true → t.FCODE ≠ 0x4)

/-- R254: INIT raises BAD_ROUNDS for every ROUNDS_F but 8, 12 and 20, for which it succeeds. -/
def Obligations.BadRoundsOutsideTheClosedSet : Prop :=
  ∀ (s : State) (r : BitVec 5), running s →
    ((r.toNat ≠ 8 ∧ r.toNat ≠ 12 ∧ r.toNat ≠ 20) →
      exec (.init r) s = .next (halted s 0x2 (encode (.init r)))) ∧
    ((r.toNat = 8 ∨ r.toNat = 12 ∨ r.toNat = 20) →
      ∃ t, exec (.init r) s = .next t ∧ t.FAULTED = false ∧ t.KEYED = true ∧ t.ROUNDS = r)

/-- R255: GEN, APPLY, WLOAD and WSTORE raise BAD_LENGTH for every LEN but 64, for which they succeed. -/
def Obligations.BadLengthUnlessSixtyFour : Prop :=
  ∀ (s : State) (i : Instr) (l : BitVec 7), running s →
    (((i = .gen l ∨ i = .apply l) ∧ s.KEYED = true) ∨
      ((i = .wload l ∨ i = .wstore l) ∧ s.config.DEBUG_CMDS = true)) →
    (l.toNat ≠ 64 → exec i s = .next (halted s 0x3 (encode i))) ∧
    (l.toNat = 64 → ∃ t, exec i s = .next t ∧ t.FAULTED = false)

/-- With DEBUG_CMDS false every word with opcode 0x5 to 0xA faults ILLEGAL_CMD whatever its other bits (R90), and so does
every primitive command run as such, with its own encoding recorded: that second clause is the model's reading (log entry 10,
DEDUCED), since the spec runs words only. -/
def Obligations.PrimitiveCommandsNeedDebug : Prop :=
  ∀ s : State, running s → s.config.DEBUG_CMDS = false →
    (∀ v : Word, 5 ≤ v.toNat % 16 → v.toNat % 16 ≤ 0xA → command v s = .next (halted s 0x1 v)) ∧
    (∀ i : Instr, i.isDebug = true → exec i s = .next (halted s 0x1 (encode i)))

/-- R259: on a halted engine every 32-bit write to CMD is ignored, and so is every command; accesses to the rest of the
window work as on any engine. -/
def Obligations.HaltedEngineIgnoresCommands : Prop :=
  ∀ s : State, s.FAULTED = true →
    (∀ v rest, s.pending = .write s.config.ENGINE_BASE 4 v :: rest → step s = .next { s with pending := rest }) ∧
    (∀ i, exec i s = .next s) ∧
    (∀ addr n rest, inContract s.config addr n → s.pending = .read addr n :: rest →
      ∃ v, step s = .next { s with pending := rest, reads := v :: s.reads } ∧
        (n = 1 → v = (readByte s (addr - s.config.ENGINE_BASE)).setWidth 32)) ∧
    (∀ addr n v rest, inContract s.config addr n → ¬(addr = s.config.ENGINE_BASE ∧ n = 4) →
      s.pending = .write addr n v :: rest →
      ∃ t, step s = .next t ∧ t.FAULTED = true ∧ t.FCODE = s.FCODE ∧ t.FAULT_CMD = s.FAULT_CMD ∧
        ∀ k < n, ∀ (j : Fin 64), addr - s.config.ENGINE_BASE + k = 0x40 + j.val → t.DBUF[j] = byteOf v k)

/-! ### What each command does -/

/-- NOP leaves every state as it is (45_control.md). -/
def Obligations.NopWritesNothing : Prop := ∀ s : State, exec .nop s = .next s

/-- R111, R112, R113, R115: INIT builds S from the constants, the key words, two zero counter words and the nonce words, sets
ROUNDS and KEYED, and leaves all else; an earlier instance makes no difference. -/
def Obligations.InitBuildsTheInstance : Prop :=
  ∀ (s : State) (r : BitVec 5), running s → (r = 8 ∨ r = 12 ∨ r = 20) →
    ∃ T : Block, exec (.init r) s = .next { s with S := T, ROUNDS := r, KEYED := true } ∧
      T[0] = 0x61707865 ∧ T[1] = 0x3320646e ∧ T[2] = 0x79622d32 ∧ T[3] = 0x6b206574 ∧
      (∀ i : Fin 8, (T[4 + i.val]'(by omega)).toNat = fourBytes s.KEYBUF (4 * i.val) (by omega)) ∧
      T[12] = 0 ∧ T[13] = 0 ∧
      (∀ i : Fin 2, (T[14 + i.val]'(by omega)).toNat = fourBytes s.NONCEBUF (4 * i.val) (by omega))

/-- SETCTR puts the number of CTRBUF, whole, into S[12] and S[13], and changes nothing else. -/
def Obligations.SetctrLoadsTheCounter : Prop :=
  ∀ s : State, keyedUp s →
    ∃ X : Block, exec .setctr s = .next { s with S := X } ∧ holdsCounter s X[12] X[13] ∧
      ∀ i : Idx, i ≠ 12 → i ≠ 13 → X[i] = s.S[i]

/-- GEN 64: counter setup in S, kept; W the words of ROUNDS/2 double rounds of S plus S; DBUF their bytes; nothing else
changes. -/
def Obligations.GenWritesTheKeystreamBlock : Prop :=
  ∀ s : State, keyedUp s →
    ∃ (X Y : Block) (D : Vector Byte 64),
      exec (.gen 64) s = .next { s with S := X, W := Y, DBUF := D } ∧
      holdsCounter s X[12] X[13] ∧ (∀ i : Idx, i ≠ 12 → i ≠ 13 → X[i] = s.S[i]) ∧
      (∀ i : Idx, Y[i] = (doubleRound^[s.ROUNDS.toNat / 2] X)[i] + X[i]) ∧
      (∀ (i : Fin 16) (j : Fin 4), (D[4 * i.val + j.val]'(by omega)) = Y[i].extractLsb' (8 * j.val) 8)

/-- APPLY 64 leaves the state GEN 64 leaves but for DBUF, each byte of which is the old byte xor the keystream byte. -/
def Obligations.ApplyXorsTheKeystreamBlock : Prop :=
  ∀ s : State, keyedUp s →
    ∃ (t : State) (D : Vector Byte 64), exec (.gen 64) s = .next t ∧
      exec (.apply 64) s = .next { t with DBUF := D } ∧ ∀ k : Fin 64, D[k] = s.DBUF[k] ^^^ t.DBUF[k]

/-- R130: QR runs the twelve statements in order on W, whatever its indices, equal ones included. -/
def Obligations.QrRunsTheTwelveStatements : Prop :=
  ∀ (s : State) (a b c d : Idx), debugUp s →
    ∃ X1 X2 X3 X4 X5 X6 X7 X8 X9 X10 X11 X12 : Block,
      exec (.qr a b c d) s = .next { s with W := X12 } ∧
      assigned s.W a (s.W[a] + s.W[b]) X1 ∧ assigned X1 d (X1[d] ^^^ X1[a]) X2 ∧
      assigned X2 d (X2[d].rotateLeft 16) X3 ∧
      assigned X3 c (X3[c] + X3[d]) X4 ∧ assigned X4 b (X4[b] ^^^ X4[c]) X5 ∧
      assigned X5 b (X5[b].rotateLeft 12) X6 ∧
      assigned X6 a (X6[a] + X6[b]) X7 ∧ assigned X7 d (X7[d] ^^^ X7[a]) X8 ∧
      assigned X8 d (X8[d].rotateLeft 8) X9 ∧
      assigned X9 c (X9[c] + X9[d]) X10 ∧ assigned X10 b (X10[b] ^^^ X10[c]) X11 ∧
      assigned X11 b (X11[b].rotateLeft 7) X12 ∧
      ∀ i : Idx, i ≠ a → i ≠ b → i ≠ c → i ≠ d → X12[i] = s.W[i]

/-- R133: the three consequences the rule draws for equal indices. -/
def Obligations.QrWithEqualIndices : Prop :=
  ∀ s : State, debugUp s →
    (∃ X : Block, exec (.qr 0 0 0 0) s = .next { s with W := X } ∧ X[0] = 0) ∧
    (s.W[0] = 3 → s.W[1] = 5 →
      ∃ X : Block, exec (.qr 0 1 0 1) s = .next { s with W := X } ∧ X[0] = 0x0d0d8808 ∧ X[1] = 0x06c00400) ∧
    ((∀ i : Idx, s.W[i] = BitVec.ofNat 32 i.val) →
      ∃ X : Block, exec (.qr 5 5 6 7) s = .next { s with W := X } ∧
        X[5] = 0x46405356 ∧ X[6] = 0x0c8d00a6 ∧ X[7] = 0x0c8000a0)

/-- R134: with four different indices the quarter round is a bijection: every working state is reached from exactly one. -/
def Obligations.QrIsABijection : Prop :=
  ∀ (s : State) (a b c d : Idx), debugUp s → distinct a b c d →
    ∀ Y : Block, ∃! X : Block, exec (.qr a b c d) { s with W := X } = .next { s with W := Y }

/-- R152: DR is the four column quarter rounds and then the four diagonal ones; it writes W only. -/
def Obligations.DrIsEightQuarterRounds : Prop :=
  ∀ s : State, debugUp s →
    ∃ X : Block, exec .dr s = .next { s with W := X } ∧
      execSeq (columnRounds ++ diagonalRounds) s = .next { s with W := X }

/-- R155: every index is in exactly one group of each pass, the quarter rounds of one pass may be done in any order, but the
two passes may not be exchanged. -/
def Obligations.QuarterRoundsOfAPassCommute : Prop :=
  (∀ (s : State) (l : List Instr), debugUp s → l.Perm columnRounds → execSeq l s = execSeq columnRounds s) ∧
  (∀ (s : State) (l : List Instr), debugUp s → l.Perm diagonalRounds → execSeq l s = execSeq diagonalRounds s) ∧
  (∀ i : Idx, ([0, 4, 8, 12, 1, 5, 9, 13, 2, 6, 10, 14, 3, 7, 11, 15] : List Idx).count i = 1 ∧
    ([0, 5, 10, 15, 1, 6, 11, 12, 2, 7, 8, 13, 3, 4, 9, 14] : List Idx).count i = 1) ∧
  (∃ s : State, debugUp s ∧
    execSeq (columnRounds ++ diagonalRounds) s ≠ execSeq (diagonalRounds ++ columnRounds) s)

/-- The round loop (R153) done by the host: n DR commands apply the double round n times. -/
def Obligations.RepeatedDrIteratesTheDoubleRound : Prop :=
  ∀ (n : Nat) (s : State), debugUp s →
    execSeq (List.replicate n .dr) s = .next { s with W := doubleRound^[n] s.W }

/-- LDW copies S into W as it stands and changes nothing else. -/
def Obligations.LdwCopiesTheStoredState : Prop :=
  ∀ s : State, debugUp s → s.KEYED = true → exec .ldw s = .next { s with W := s.S }

/-- FFW adds S into W, each word modulo 2^32 with no carry between words, and changes nothing else. -/
def Obligations.FfwAddsTheStoredState : Prop :=
  ∀ s : State, debugUp s → s.KEYED = true →
    ∃ X : Block, exec .ffw s = .next { s with W := X } ∧
      ∀ i : Idx, X[i].toNat = (s.W[i].toNat + s.S[i].toNat) % 2 ^ 32

/-- WLOAD 64 packs DBUF into W, little-endian, and changes nothing else. -/
def Obligations.WloadPacksTheBuffer : Prop :=
  ∀ s : State, debugUp s →
    ∃ X : Block, exec (.wload 64) s = .next { s with W := X } ∧
      ∀ i : Fin 16, X[i].toNat = fourBytes s.DBUF (4 * i.val) (by omega)

/-- WSTORE 64 serializes W into DBUF, little-endian, and changes nothing else. -/
def Obligations.WstoreSerializesTheWords : Prop :=
  ∀ s : State, debugUp s →
    ∃ D : Vector Byte 64, exec (.wstore 64) s = .next { s with DBUF := D } ∧
      ∀ (i : Fin 16) (j : Fin 4), (D[4 * i.val + j.val]'(by omega)).toNat = s.W[i].toNat / 256 ^ j.val % 256

/-- R172: serialization and its inverse: WLOAD then WSTORE leaves DBUF as it was, WSTORE then WLOAD leaves W as it was. -/
def Obligations.SerializationIsInvertible : Prop :=
  ∀ s : State, debugUp s →
    (∃ X : Block, execSeq [.wload 64, .wstore 64] s = .next { s with W := X }) ∧
    (∃ D : Vector Byte 64, execSeq [.wstore 64, .wload 64] s = .next { s with DBUF := D })

/-! ### The laws of R179 and R180 -/

/-- XOR involution: APPLY twice with the same counter leaves DBUF as it was, and the rest of the state as one APPLY left it. -/
def Obligations.ApplyTwiceRestoresTheBuffer : Prop :=
  ∀ s : State, keyedUp s →
    ∃ t, exec (.apply 64) s = .next t ∧ execSeq [.apply 64, .apply 64] s = .next { t with DBUF := s.DBUF }

/-- Generate/apply equivalence: on an all-zero DBUF, APPLY and GEN leave the same state. -/
def Obligations.ApplyOnZeroBufferIsGen : Prop :=
  ∀ s : State, keyedUp s → s.DBUF = Vector.replicate 64 0 → exec (.apply 64) s = exec (.gen 64) s

/-- Primitive equivalence: SETCTR, LDW, ROUNDS/2 times DR, FFW and WSTORE leave the state GEN leaves. -/
def Obligations.PrimitivesComposeToGen : Prop :=
  ∀ s : State, keyedUp s → debugUp s →
    ∃ t, exec (.gen 64) s = .next t ∧
      execSeq ([.setctr, .ldw] ++ List.replicate (s.ROUNDS.toNat / 2) .dr ++ [.ffw, .wstore 64]) s = .next t

/-- Determinism: GEN's output depends on S[0..11], S[14..15], CTRBUF and ROUNDS alone. -/
def Obligations.GenDependsOnInstanceAndCounterOnly : Prop :=
  ∀ s s' : State, keyedUp s → keyedUp s' → (∀ i : Idx, i ≠ 12 → i ≠ 13 → s.S[i] = s'.S[i]) →
    s.CTRBUF = s'.CTRBUF → s.ROUNDS = s'.ROUNDS →
    ∃ t t', exec (.gen 64) s = .next t ∧ exec (.gen 64) s' = .next t' ∧
      t.DBUF = t'.DBUF ∧ t.W = t'.W ∧ t.S = t'.S

/-- Counter isolation: blocks that differ only in the counter have pre-round states that differ in S[12] and S[13] alone, and
they do differ there. -/
def Obligations.CounterReachesTwoWordsOnly : Prop :=
  ∀ (s : State) (C : Vector Byte 8), keyedUp s →
    ∃ t t', exec (.gen 64) s = .next t ∧ exec (.gen 64) { s with CTRBUF := C } = .next t' ∧
      (∀ i : Idx, i ≠ 12 → i ≠ 13 → t.S[i] = t'.S[i]) ∧
      (C ≠ s.CTRBUF → t.S[12] ≠ t'.S[12] ∨ t.S[13] ≠ t'.S[13])

/-! ### Frames -/

/-- QR, DR, LDW, FFW and WLOAD, when they do not fault, change W alone; every byte of the window reads as before. -/
def Obligations.WorkingStateCommandsChangeOnlyW : Prop :=
  ∀ (i : Instr) (s t : State),
    ((∃ a b c d, i = .qr a b c d) ∨ i = .dr ∨ i = .ldw ∨ i = .ffw ∨ ∃ l, i = .wload l) →
    exec i s = .next t → t.FAULTED = s.FAULTED →
    t = { s with W := t.W } ∧ windowSame 0 0 s t

/-- GEN and APPLY, when they do not fault, change S[12], S[13], W and DBUF alone, and WSTORE changes DBUF alone; every byte of
the window outside DBUF reads as before. -/
def Obligations.BufferCommandsChangeOnlyTheBlock : Prop :=
  ∀ (i : Instr) (s t : State), ((∃ l, i = .gen l ∨ i = .apply l) ∨ ∃ l, i = .wstore l) →
    exec i s = .next t → t.FAULTED = s.FAULTED →
    t = { s with S := t.S, W := t.W, DBUF := t.DBUF } ∧
    (∀ k : Idx, k ≠ 12 → k ≠ 13 → t.S[k] = s.S[k]) ∧
    ((∃ l, i = .wstore l) → t.S = s.S ∧ t.W = s.W) ∧
    windowSame 0x40 0x80 s t

/-- SETCTR, when it does not fault, changes S[12] and S[13] alone and INIT changes S, ROUNDS and KEYED alone; every byte of the
window reads as before, after INIT those outside STATUS. -/
def Obligations.InstanceCommandsChangeOnlyTheInstance : Prop :=
  ∀ (s t : State), t.FAULTED = s.FAULTED →
    (exec .setctr s = .next t → t = { s with S := t.S } ∧
      (∀ k : Idx, k ≠ 12 → k ≠ 13 → t.S[k] = s.S[k]) ∧ windowSame 0 0 s t) ∧
    (∀ r, exec (.init r) s = .next t →
      t = { s with S := t.S, ROUNDS := t.ROUNDS, KEYED := t.KEYED } ∧ windowSame 0x04 0x08 s t)

/-- Only INIT and reset change an engine instance: any other step leaves ROUNDS, KEYED, S[0..11] and S[14..15] alone (R22,
R24, R25). -/
def Obligations.OnlyInitAndResetChangeTheInstance : Prop :=
  ∀ s t : State, step s = .next t →
    (∀ rest, s.pending ≠ .reset :: rest) →
    (∀ v rest r, s.pending = .write s.config.ENGINE_BASE 4 v :: rest → decode s.config.DEBUG_CMDS v ≠ .ok (.init r)) →
    t.ROUNDS = s.ROUNDS ∧ t.KEYED = s.KEYED ∧ ∀ k : Idx, k ≠ 12 → k ≠ 13 → t.S[k] = s.S[k]

/-- R68: the only writers of DBUF are host writes to it, GEN, APPLY and WSTORE (and reset, R290). The other commands and every
faulting command leave it unchanged. -/
def Obligations.WritersOfTheDataBuffer : Prop :=
  (∀ (i : Instr) (s t : State),
    (i = .nop ∨ i = .setctr ∨ i = .dr ∨ i = .ldw ∨ i = .ffw ∨ (∃ r, i = .init r) ∨
      (∃ a b c d, i = .qr a b c d) ∨ ∃ l, i = .wload l) →
    exec i s = .next t → t.DBUF = s.DBUF) ∧
  (∀ (v : Word) (s t : State), running s → command v s = .next t → t.FAULTED = true → t.DBUF = s.DBUF) ∧
  (∀ s t : State, step s = .next t → t.DBUF ≠ s.DBUF →
    ∃ a rest, s.pending = a :: rest ∧
      (a = .reset ∨
        (∃ addr n v, a = .write addr n v ∧ s.config.ENGINE_BASE + 0x40 ≤ addr ∧ addr < s.config.ENGINE_BASE + 0x80) ∨
        (∃ v i, a = .write s.config.ENGINE_BASE 4 v ∧ decode s.config.DEBUG_CMDS v = .ok i ∧
          (i = .gen 64 ∨ i = .apply 64 ∨ i = .wstore 64))))

/-- R222: no command changes CTRBUF and none increments the counter words: after a command S[12] and S[13] are what they were,
or the number of CTRBUF, or (after INIT) zero. The other input ports and the host's side are out of its reach too. -/
def Obligations.NoCommandIncrementsTheCounter : Prop :=
  ∀ (i : Instr) (s t : State), exec i s = .next t →
    t.CTRBUF = s.CTRBUF ∧ t.KEYBUF = s.KEYBUF ∧ t.NONCEBUF = s.NONCEBUF ∧
    t.config = s.config ∧ t.pending = s.pending ∧ t.reads = s.reads ∧
    ((t.S[12] = s.S[12] ∧ t.S[13] = s.S[13]) ∨ holdsCounter s t.S[12] t.S[13] ∨
      ((∃ r, i = .init r) ∧ t.S[12] = 0 ∧ t.S[13] = 0))

/-! ### The register window -/

/-- The "host read" column of R51, byte by byte: a one-byte read of each offset returns what its row says, and changes no
engine state. -/
def Obligations.RegisterMapReads : Prop :=
  ∀ (s : State) (off : Nat) (rest : List HostStep), off < 256 →
    s.pending = .read (s.config.ENGINE_BASE + off) 1 :: rest →
    ∃ b : Byte, step s = .next { s with pending := rest, reads := b.setWidth 32 :: s.reads } ∧
      (off < 0x04 → b = 0) ∧
      (∀ k : Fin 4, off = 0x04 + k.val → b.toNat = (statusWord s).toNat / 256 ^ k.val % 256) ∧
      (∀ k : Fin 4, off = 0x08 + k.val → b.toNat = s.FAULT_CMD.toNat / 256 ^ k.val % 256) ∧
      (0x0C ≤ off → off < 0x10 → b = 0) ∧
      (∀ k : Fin 8, off = 0x10 + k.val → b = s.CTRBUF[k]) ∧
      (0x18 ≤ off → off < 0x40 → b = 0) ∧
      (∀ k : Fin 64, off = 0x40 + k.val → b = s.DBUF[k]) ∧
      (0x80 ≤ off → b = 0)

/-- The "host write" column of R51, byte by byte: a one-byte write to a port buffer stores the byte there and nowhere else; a
one-byte write to any other offset changes nothing. -/
def Obligations.RegisterMapWrites : Prop :=
  ∀ (s : State) (off : Nat) (v : Word) (rest : List HostStep), off < 256 →
    s.pending = .write (s.config.ENGINE_BASE + off) 1 v :: rest →
    let b : Byte := v.setWidth 8
    (off < 0x10 ∨ 0x80 ≤ off → step s = .next { s with pending := rest }) ∧
    (∀ k : Fin 8, off = 0x10 + k.val → step s = .next { s with pending := rest, CTRBUF := s.CTRBUF.set k b }) ∧
    (∀ k : Fin 8, off = 0x18 + k.val → step s = .next { s with pending := rest, NONCEBUF := s.NONCEBUF.set k b }) ∧
    (∀ k : Fin 32, off = 0x20 + k.val → step s = .next { s with pending := rest, KEYBUF := s.KEYBUF.set k b }) ∧
    (∀ k : Fin 64, off = 0x40 + k.val → step s = .next { s with pending := rest, DBUF := s.DBUF.set k b })

/-- R55, R58: reserved offsets read as zero and ignore writes of every width, and so do STATUS and FAULT_CMD ignore writes. -/
def Obligations.ReservedAndReadOnlyOffsets : Prop :=
  (∀ (s : State) (addr n : Nat) (v : Word) (rest : List HostStep), inContract s.config addr n →
    (s.config.ENGINE_BASE + 0x04 ≤ addr ∧ addr < s.config.ENGINE_BASE + 0x10 ∨ s.config.ENGINE_BASE + 0x80 ≤ addr) →
    s.pending = .write addr n v :: rest → step s = .next { s with pending := rest }) ∧
  (∀ (s : State) (addr n : Nat) (rest : List HostStep), inContract s.config addr n →
    (s.config.ENGINE_BASE + 0x0C ≤ addr ∧ addr < s.config.ENGINE_BASE + 0x10 ∨ s.config.ENGINE_BASE + 0x80 ≤ addr) →
    s.pending = .read addr n :: rest → step s = .next { s with pending := rest, reads := 0 :: s.reads })

/-- R57: a read of CTRBUF or DBUF returns the byte last written there, by the host or by a command; after reset, zero. A byte
write leaves every other byte of the window alone. -/
def Obligations.PortBuffersReadBack : Prop :=
  (∀ (s : State) (off : Nat) (b : Byte), (0x10 ≤ off ∧ off < 0x18 ∨ 0x40 ≤ off ∧ off < 0x80) →
    readByte (writeByte off b s) off = b) ∧
  (∀ (s : State) (off off' : Nat) (b : Byte), off < 256 → off' < 256 → off' ≠ off →
    readByte (writeByte off b s) off' = readByte s off') ∧
  (∀ (s : State), keyedUp s →
    ∃ t, exec (.gen 64) s = .next t ∧
      ∀ k : Fin 64, readByte t (0x40 + k.val) = (t.W[k.val / 4]'(by omega)).extractLsb' (8 * (k.val % 4)) 8) ∧
  (∀ (s : State), debugUp s →
    ∃ t, exec (.wstore 64) s = .next t ∧
      ∀ k : Fin 64, readByte t (0x40 + k.val) = (s.W[k.val / 4]'(by omega)).extractLsb' (8 * (k.val % 4)) 8) ∧
  (∀ (s : State), keyedUp s →
    ∃ t, exec (.apply 64) s = .next t ∧
      ∀ k : Fin 64, readByte t (0x40 + k.val) =
        readByte s (0x40 + k.val) ^^^ (t.W[k.val / 4]'(by omega)).extractLsb' (8 * (k.val % 4)) 8) ∧
  (∀ off < 256, readByte State.reset off = 0)

/-- An access of n bytes is n byte accesses, little-endian, except at CMD (R53). -/
def Obligations.WideAccessIsByteAccesses : Prop :=
  (∀ (s : State) (addr n : Nat) (v : Word) (rest : List HostStep), inContract s.config addr n →
    ¬(addr = s.config.ENGINE_BASE ∧ n = 4) → s.pending = .write addr n v :: rest →
    let byteWrites := (List.range n).map fun k => HostStep.write (addr + k) 1 ((v.extractLsb' (8 * k) 8).setWidth 32)
    step s = runSteps n { s with pending := byteWrites ++ rest }) ∧
  (∀ (s : State) (addr n : Nat) (rest : List HostStep), inContract s.config addr n →
    s.pending = .read addr n :: rest →
    ∃ v : Word, step s = .next { s with pending := rest, reads := v :: s.reads } ∧
      v.toNat = ((List.range n).map fun k =>
        (readByte s (addr - s.config.ENGINE_BASE + k)).toNat * 256 ^ k).sum)

/-- R54: an access in the window has a step exactly when its width is 1, 2 or 4 and it is aligned; such an access spans one row
of the register map. That the others are refused under these names, the width looked at before the alignment, is the model's
(log entry 11). -/
def Obligations.AlignedAccessesOnly : Prop :=
  ∀ (s : State) (off n : Nat) (v : Word) (rest : List HostStep), off < 256 →
    (((n = 1 ∨ n = 2 ∨ n = 4) ∧ off % n = 0) →
      (s.pending = .read (s.config.ENGINE_BASE + off) n :: rest → ∃ t, step s = .next t) ∧
      (s.pending = .write (s.config.ENGINE_BASE + off) n v :: rest → ∃ t, step s = .next t) ∧
      ∀ k < n, portAt (off + k) = portAt off) ∧
    (¬((n = 1 ∨ n = 2 ∨ n = 4) ∧ off % n = 0) →
      (s.pending = .read (s.config.ENGINE_BASE + off) n :: rest ∨
        s.pending = .write (s.config.ENGINE_BASE + off) n v :: rest) →
      step s = .refused (if n = 1 ∨ n = 2 ∨ n = 4 then .misalignedAccess off n else .unsupportedWidth n))

/-- R69: an address outside the window is not part of the engine, and no aligned access runs past the window's end. That such
an access is a fault of the machine is the model's choice (log entry 8). -/
def Obligations.AddressesOutsideTheWindow : Prop :=
  (∀ (s : State) (addr n : Nat) (v : Word) (rest : List HostStep),
    (addr < s.config.ENGINE_BASE ∨ s.config.ENGINE_BASE + 256 ≤ addr) →
    (s.pending = .read addr n :: rest ∨ s.pending = .write addr n v :: rest) →
    step s = .fault (.outsideWindow addr)) ∧
  (∀ off n : Nat, off < 256 → (n = 1 ∨ n = 2 ∨ n = 4) → off % n = 0 → off + n ≤ 256)

/-- R59: a 32-bit write at offset 0x00 runs the command; a narrower write to 0x00-0x03 changes no state; reads there return 0. -/
def Obligations.CommandPort : Prop :=
  ∀ (s : State) (rest : List HostStep),
    (∀ v, s.pending = .write s.config.ENGINE_BASE 4 v :: rest → step s = command v { s with pending := rest }) ∧
    (∀ off n v, off < 4 → (n = 1 ∨ n = 2) → off % n = 0 →
      s.pending = .write (s.config.ENGINE_BASE + off) n v :: rest → step s = .next { s with pending := rest }) ∧
    (∀ off n, off < 4 → (n = 1 ∨ n = 2 ∨ n = 4) → off % n = 0 →
      s.pending = .read (s.config.ENGINE_BASE + off) n :: rest →
      step s = .next { s with pending := rest, reads := 0 :: s.reads })

/-- R33: a 32-bit read of STATUS returns the fields at their places, zeros elsewhere, and FCODE 0 while no fault is recorded in a
state that meets the invariant; a 32-bit read of FAULT_CMD returns the register; writes to STATUS change nothing. -/
def Obligations.StatusIsAViewOfTheRegisters : Prop :=
  ∀ (s : State) (rest : List HostStep),
    (s.pending = .read (s.config.ENGINE_BASE + 0x04) 4 :: rest →
      ∃ v : Word, step s = .next { s with pending := rest, reads := v :: s.reads } ∧
        v.extractLsb' 0 1 = BitVec.ofBool s.KEYED ∧ v.extractLsb' 1 1 = BitVec.ofBool s.FAULTED ∧
        v.extractLsb' 2 2 = 0 ∧ v.extractLsb' 4 4 = s.FCODE ∧ v.extractLsb' 8 5 = s.ROUNDS ∧
        v.extractLsb' 13 19 = 0 ∧
        (StateInv s → s.FAULTED = false → v.extractLsb' 4 4 = 0)) ∧
    (s.pending = .read (s.config.ENGINE_BASE + 0x08) 4 :: rest →
      step s = .next { s with pending := rest, reads := s.FAULT_CMD :: s.reads }) ∧
    (∀ off n v, 0x04 ≤ off → off < 0x08 → (n = 1 ∨ n = 2 ∨ n = 4) → off % n = 0 →
      s.pending = .write (s.config.ENGINE_BASE + off) n v :: rest → step s = .next { s with pending := rest })

/-- R61: reads have no side effects and are idempotent; a write other than a 32-bit one to CMD changes only the addressed bytes of
the port buffers. -/
def Obligations.SideEffectsOfAccesses : Prop :=
  (∀ (s : State) (addr n : Nat) (rest : List HostStep), inContract s.config addr n →
    s.pending = .read addr n :: .read addr n :: rest →
    ∃ v, step s = .next { s with pending := .read addr n :: rest, reads := v :: s.reads } ∧
      runSteps 2 s = .next { s with pending := rest, reads := v :: v :: s.reads }) ∧
  (∀ (s : State) (addr n : Nat) (v : Word) (rest : List HostStep), inContract s.config addr n →
    ¬(addr = s.config.ENGINE_BASE ∧ n = 4) → s.pending = .write addr n v :: rest →
    ∃ t, step s = .next t ∧
      t = { s with
        pending := rest, KEYBUF := t.KEYBUF, NONCEBUF := t.NONCEBUF, CTRBUF := t.CTRBUF, DBUF := t.DBUF } ∧
      (∀ k : Fin 8, ¬(addr ≤ s.config.ENGINE_BASE + 0x10 + k.val ∧ s.config.ENGINE_BASE + 0x10 + k.val < addr + n) →
        t.CTRBUF[k] = s.CTRBUF[k]) ∧
      (∀ k : Fin 8, ¬(addr ≤ s.config.ENGINE_BASE + 0x18 + k.val ∧ s.config.ENGINE_BASE + 0x18 + k.val < addr + n) →
        t.NONCEBUF[k] = s.NONCEBUF[k]) ∧
      (∀ k : Fin 32, ¬(addr ≤ s.config.ENGINE_BASE + 0x20 + k.val ∧ s.config.ENGINE_BASE + 0x20 + k.val < addr + n) →
        t.KEYBUF[k] = s.KEYBUF[k]) ∧
      (∀ k : Fin 64, ¬(addr ≤ s.config.ENGINE_BASE + 0x40 + k.val ∧ s.config.ENGINE_BASE + 0x40 + k.val < addr + n) →
        t.DBUF[k] = s.DBUF[k]))

/-! ### The machine -/

/-- Host steps are taken one at a time, in their order, and the configuration never changes (R60, R62, R37). With nothing pending
the engine is idle and holds its state (R267, R292). -/
def Obligations.HostStepsAreTakenInOrder : Prop :=
  (∀ (s t : State) (a : HostStep) (rest : List HostStep), s.pending = a :: rest → step s = .next t →
    t.pending = rest ∧ t.config = s.config) ∧
  (∀ s : State, s.pending = [] → step s = .next s)

/-- A step is taken exactly from the states whose next host step keeps the interface contract. How the others stop is the model's
(log entries 8 and 11). -/
def Obligations.ContractIsExactlyWhatRuns : Prop :=
  ∀ s : State, safeState s ↔ ∃ t, step s = .next t

/-- R36: after reset every register and buffer holds zero. -/
def Obligations.ResetLeavesZeros : Prop :=
  State.reset.S = Vector.replicate 16 0 ∧ State.reset.W = Vector.replicate 16 0 ∧ State.reset.ROUNDS = 0 ∧
  State.reset.KEYED = false ∧ State.reset.FAULTED = false ∧ State.reset.FCODE = 0 ∧ State.reset.FAULT_CMD = 0 ∧
  State.reset.KEYBUF = Vector.replicate 32 0 ∧ State.reset.NONCEBUF = Vector.replicate 8 0 ∧
  State.reset.CTRBUF = Vector.replicate 8 0 ∧ State.reset.DBUF = Vector.replicate 64 0 ∧
  readBytes State.reset 0x04 4 = 0x00000000

/-- R290: reset sets every register and buffer to its reset value; it is the only event that clears FAULTED, and the only one
besides a new INIT that ends an engine instance: no command does either. That the configuration and the host's side of the
window stay is the model's reading (log entries 1 and 4). -/
def Obligations.ResetAloneLeavesTheHaltedState : Prop :=
  (∀ (s : State) (rest : List HostStep), s.pending = .reset :: rest →
    step s = .next { State.reset with config := s.config, pending := rest, reads := s.reads }) ∧
  (∀ s t : State, step s = .next t → s.FAULTED = true → (∀ rest, s.pending ≠ .reset :: rest) →
    t.FAULTED = true ∧ t.FCODE = s.FCODE ∧ t.FAULT_CMD = s.FAULT_CMD) ∧
  (∀ s t : State, step s = .next t → s.KEYED = true → (∀ rest, s.pending ≠ .reset :: rest) → t.KEYED = true) ∧
  (∀ (i : Instr) (s t : State), exec i s = .next t →
    (s.FAULTED = true → t.FAULTED = true) ∧ (s.KEYED = true → t.KEYED = true))

/-- The invariant holds after reset. -/
def Obligations.ResetMeetsInv : Prop := StateInv State.reset

/-- The invariant is kept by every step: with an engine instance S[0..3] are the constants and ROUNDS is 8, 12 or 20, without one S
and ROUNDS are zero; while halted the fault registers hold a word and the code of the fault that word raises, otherwise zeros. -/
def Obligations.EveryStepKeepsInv : Prop :=
  ∀ s t : State, StateInv s → step s = .next t → StateInv t

/-- With DEBUG_CMDS false, S, W, KEYBUF and NONCEBUF reach the host through GEN and APPLY alone (R35, R56): any other step takes two
states the host cannot tell apart to two states it cannot tell apart. -/
def Obligations.SecretsLeaveThroughBlocksOnly : Prop :=
  ∀ s s' t t' : State, hostView s = hostView s' → s.config.DEBUG_CMDS = false →
    (∀ v rest l, s.pending = .write s.config.ENGINE_BASE 4 v :: rest →
      decode false v ≠ .ok (.gen l) ∧ decode false v ≠ .ok (.apply l)) →
    step s = .next t → step s' = .next t' → hostView t = hostView t'

/-- R296: the time a command holds the bus is positive and depends on the word, ROUNDS, KEYED and FAULTED alone (and on the
parameter DEBUG_CMDS), never on S, W or a buffer; a command that neither faults nor is ignored takes CMD_CYCLES(v, ROUNDS). -/
def Obligations.CommandTimeIsDataIndependent : Prop :=
  (∀ (v : Word) (s s' : State), s.config.DEBUG_CMDS = s'.config.DEBUG_CMDS → s.ROUNDS = s'.ROUNDS →
    s.KEYED = s'.KEYED → s.FAULTED = s'.FAULTED → busCycles v s = busCycles v s') ∧
  (∀ (v : Word) (s : State), 0 < busCycles v s) ∧
  (∀ (v : Word) (s : State), running s → wordCause s.config.DEBUG_CMDS s.KEYED v = none →
    busCycles v s = Config.cmdCyclesLessOne v s.ROUNDS + 1)
end

