-- ==== Sys2Proof/Laws/Decode.lean ====
section
/-! SUPPORT. Laws/Decode.lean: byte packing and the fields of a command word. -/

namespace Sys2Proof

/-! ### Byte packing (R9) -/

theorem le32_toNat (b0 b1 b2 b3 : Byte) :
    (le32 b0 b1 b2 b3).toNat =
      b0.toNat + 256 * b1.toNat + 65536 * b2.toNat + 16777216 * b3.toNat := by
  have h0 := b0.isLt
  have h1 := b1.isLt
  have h2 := b2.isLt
  have h3 := b3.isLt
  simp only [le32, BitVec.toNat_ofNat]
  exact Nat.mod_eq_of_lt (by omega)

theorem byteOf_toNat (w : Word) (k : Nat) : (byteOf w k).toNat = w.toNat / 256 ^ k % 256 := by
  simp only [byteOf, BitVec.extractLsb'_toNat, Nat.shiftRight_eq_div_pow, Nat.pow_mul]

/-- Packing a word's bytes gives the word back (R9). -/
theorem le32_bytes (w : Word) : le32 (byteOf w 0) (byteOf w 1) (byteOf w 2) (byteOf w 3) = w := by
  have h := w.isLt
  apply BitVec.eq_of_toNat_eq
  rw [le32_toNat]
  simp only [byteOf_toNat]
  omega

/-- The bytes of a packed word are the bytes it was packed from (R9). -/
theorem byteOf_le32 (b0 b1 b2 b3 : Byte) :
    byteOf (le32 b0 b1 b2 b3) 0 = b0 ∧ byteOf (le32 b0 b1 b2 b3) 1 = b1 ∧
      byteOf (le32 b0 b1 b2 b3) 2 = b2 ∧ byteOf (le32 b0 b1 b2 b3) 3 = b3 := by
  have h0 := b0.isLt
  have h1 := b1.isLt
  have h2 := b2.isLt
  have h3 := b3.isLt
  refine ⟨?_, ?_, ?_, ?_⟩ <;> apply BitVec.eq_of_toNat_eq <;>
    simp only [byteOf_toNat, le32_toNat] <;> omega

/-! ### Fields of a word (R81 to R85), as numbers -/

theorem opField_eq (v : Word) : opField v = v.toNat % 16 := by
  simp [opField, BitVec.extractLsb'_toNat]

theorem roundsField_toNat (v : Word) : (roundsField v).toNat = v.toNat / 16 % 32 := by
  simp [roundsField, BitVec.extractLsb'_toNat, Nat.shiftRight_eq_div_pow]

theorem lenField_toNat (v : Word) : (lenField v).toNat = v.toNat / 16 % 128 := by
  simp [lenField, BitVec.extractLsb'_toNat, Nat.shiftRight_eq_div_pow]

theorem idxField_val (v : Word) (lo : Nat) : (idxField v lo).val = v.toNat / 2 ^ lo % 16 := by
  simp [idxField, Nat.shiftRight_eq_div_pow]

/-- The reserved bits above `lo` are 0 exactly when the word is below 2^lo. -/
theorem shiftRight_eq_zero (v : Word) (lo : Nat) : v >>> lo = 0 ↔ v.toNat < 2 ^ lo := by
  rw [← BitVec.toNat_inj]
  simp [Nat.shiftRight_eq_div_pow, Nat.div_eq_zero_iff]

/-! ### What decoding can answer -/

theorem zeroFrom_ok {lo : Nat} {v : Word} {i j : Instr} :
    zeroFrom lo v i = .ok j ↔ v.toNat < 2 ^ lo ∧ j = i := by
  rw [← shiftRight_eq_zero]
  unfold zeroFrom
  split <;> simp_all [eq_comm]

theorem debugOnly_ok {d : Bool} {r : Except Illegal Instr} {j : Instr} :
    debugOnly d r = .ok j ↔ d = true ∧ r = .ok j := by
  cases d <;> simp [debugOnly]

/-- A word that decodes has the opcode of what it decodes to, no bit set above its fields, and, for a primitive command,
DEBUG_CMDS true (R92). -/
theorem decode_ok {d : Bool} {v : Word} {i : Instr} (h : decode d v = .ok i) :
    (v.toNat % 16 = 0 ∧ v.toNat < 2 ^ 4 ∧ i = .nop) ∨
    (v.toNat % 16 = 1 ∧ v.toNat < 2 ^ 9 ∧ i = .init (roundsField v)) ∨
    (v.toNat % 16 = 2 ∧ v.toNat < 2 ^ 4 ∧ i = .setctr) ∨
    (v.toNat % 16 = 3 ∧ v.toNat < 2 ^ 11 ∧ i = .gen (lenField v)) ∨
    (v.toNat % 16 = 4 ∧ v.toNat < 2 ^ 11 ∧ i = .apply (lenField v)) ∨
    (v.toNat % 16 = 5 ∧ d = true ∧ v.toNat < 2 ^ 20 ∧
      i = .qr (idxField v 4) (idxField v 8) (idxField v 12) (idxField v 16)) ∨
    (v.toNat % 16 = 6 ∧ d = true ∧ v.toNat < 2 ^ 4 ∧ i = .dr) ∨
    (v.toNat % 16 = 7 ∧ d = true ∧ v.toNat < 2 ^ 4 ∧ i = .ldw) ∨
    (v.toNat % 16 = 8 ∧ d = true ∧ v.toNat < 2 ^ 4 ∧ i = .ffw) ∨
    (v.toNat % 16 = 9 ∧ d = true ∧ v.toNat < 2 ^ 11 ∧ i = .wload (lenField v)) ∨
    (v.toNat % 16 = 10 ∧ d = true ∧ v.toNat < 2 ^ 11 ∧ i = .wstore (lenField v)) := by
  unfold decode at h
  split at h <;> simp_all [zeroFrom_ok, debugOnly_ok, opField_eq]

/-! ### Encoded words, as numbers -/

theorem low_or (a k b : Nat) (h : b < 2 ^ k) : (a <<< k ||| b) = 2 ^ k * a + b := by
  rw [Nat.shiftLeft_eq, Nat.mul_comm, Nat.two_pow_add_eq_or_of_lt h]

theorem encode_init_toNat (r : BitVec 5) : (encode (.init r)).toNat = 16 * r.toNat + 1 := by
  have h := r.isLt
  have e : r.toNat % 2 ^ 32 = r.toNat := Nat.mod_eq_of_lt (by omega)
  have := low_or r.toNat 4 1 (by omega)
  simp only [encode, roundsAt, BitVec.toNat_or, BitVec.toNat_shiftLeft, BitVec.toNat_setWidth, e]
  rw [Nat.mod_eq_of_lt (by rw [Nat.shiftLeft_eq]; omega)]
  simpa using this

/-- An L-format word: LEN above a 4-bit OP. -/
theorem lenAt_or_toNat (l : BitVec 7) (op : Word) (h : op.toNat < 16) :
    (lenAt l ||| op).toNat = 16 * l.toNat + op.toNat := by
  have hl := l.isLt
  have e : l.toNat % 2 ^ 32 = l.toNat := Nat.mod_eq_of_lt (by omega)
  have := low_or l.toNat 4 op.toNat h
  simp only [lenAt, BitVec.toNat_or, BitVec.toNat_shiftLeft, BitVec.toNat_setWidth, e]
  rw [Nat.mod_eq_of_lt (by rw [Nat.shiftLeft_eq]; omega)]
  simpa using this

theorem encode_qr_toNat (a b c d : Idx) :
    (encode (.qr a b c d)).toNat =
      65536 * d.val + 4096 * c.val + 256 * b.val + 16 * a.val + 5 := by
  obtain ⟨a, ha⟩ := a
  obtain ⟨b, hb⟩ := b
  obtain ⟨c, hc⟩ := c
  obtain ⟨d, hd⟩ := d
  have op : (5 : Word).toNat = 5 := rfl
  have h1 := low_or a 4 5 (by omega)
  have h2 := low_or b 8 (2 ^ 4 * a + 5) (by omega)
  have h3 := low_or c 12 (2 ^ 8 * b + (2 ^ 4 * a + 5)) (by omega)
  have h4 := low_or d 16 (2 ^ 12 * c + (2 ^ 8 * b + (2 ^ 4 * a + 5))) (by omega)
  have m : ∀ x k, x < 16 → k ≤ 16 → (x % 2 ^ 32) <<< k % 2 ^ 32 = x <<< k := by
    intro x k hx hk
    have : 2 ^ k ≤ 2 ^ 16 := Nat.pow_le_pow_right (by omega) hk
    have : x * 2 ^ k ≤ 15 * 2 ^ 16 := Nat.mul_le_mul (by omega) this
    rw [Nat.mod_eq_of_lt (by omega : x < 2 ^ 32), Nat.shiftLeft_eq,
      Nat.mod_eq_of_lt (by omega)]
  simp only [encode, idxAt, BitVec.toNat_or, BitVec.toNat_shiftLeft, BitVec.toNat_ofNat]
  rw [m _ _ ha (by omega), m _ _ hb (by omega), m _ _ hc (by omega), m _ _ hd (by omega), op]
  simp only [Nat.or_assoc]
  norm_num at h1 h2 h3 h4 ⊢
  rw [h1, h2, h3, h4]
  ring

end Sys2Proof
end

