-- ==== Sys2Proof/Laws/State.lean ====
section
/-! SUPPORT. Laws/State.lean: what each update of the state leaves in each field, one lemma per field per update. -/

namespace Sys2Proof.Machine

variable (s : State)

/-! ### `State.withS` -/

@[simp] theorem State.withS_S (X : Block) : (s.withS X).S = X := rfl
@[simp] theorem State.withS_W (X : Block) : (s.withS X).W = s.W := rfl
@[simp] theorem State.withS_ROUNDS (X : Block) : (s.withS X).ROUNDS = s.ROUNDS := rfl
@[simp] theorem State.withS_KEYED (X : Block) : (s.withS X).KEYED = s.KEYED := rfl
@[simp] theorem State.withS_FAULTED (X : Block) : (s.withS X).FAULTED = s.FAULTED := rfl
@[simp] theorem State.withS_FCODE (X : Block) : (s.withS X).FCODE = s.FCODE := rfl
@[simp] theorem State.withS_FAULT_CMD (X : Block) : (s.withS X).FAULT_CMD = s.FAULT_CMD := rfl
@[simp] theorem State.withS_KEYBUF (X : Block) : (s.withS X).KEYBUF = s.KEYBUF := rfl
@[simp] theorem State.withS_NONCEBUF (X : Block) : (s.withS X).NONCEBUF = s.NONCEBUF := rfl
@[simp] theorem State.withS_CTRBUF (X : Block) : (s.withS X).CTRBUF = s.CTRBUF := rfl
@[simp] theorem State.withS_DBUF (X : Block) : (s.withS X).DBUF = s.DBUF := rfl
@[simp] theorem State.withS_config (X : Block) : (s.withS X).config = s.config := rfl
@[simp] theorem State.withS_pending (X : Block) : (s.withS X).pending = s.pending := rfl
@[simp] theorem State.withS_reads (X : Block) : (s.withS X).reads = s.reads := rfl

/-! ### `State.withW` -/

@[simp] theorem State.withW_S (X : Block) : (s.withW X).S = s.S := rfl
@[simp] theorem State.withW_W (X : Block) : (s.withW X).W = X := rfl
@[simp] theorem State.withW_ROUNDS (X : Block) : (s.withW X).ROUNDS = s.ROUNDS := rfl
@[simp] theorem State.withW_KEYED (X : Block) : (s.withW X).KEYED = s.KEYED := rfl
@[simp] theorem State.withW_FAULTED (X : Block) : (s.withW X).FAULTED = s.FAULTED := rfl
@[simp] theorem State.withW_FCODE (X : Block) : (s.withW X).FCODE = s.FCODE := rfl
@[simp] theorem State.withW_FAULT_CMD (X : Block) : (s.withW X).FAULT_CMD = s.FAULT_CMD := rfl
@[simp] theorem State.withW_KEYBUF (X : Block) : (s.withW X).KEYBUF = s.KEYBUF := rfl
@[simp] theorem State.withW_NONCEBUF (X : Block) : (s.withW X).NONCEBUF = s.NONCEBUF := rfl
@[simp] theorem State.withW_CTRBUF (X : Block) : (s.withW X).CTRBUF = s.CTRBUF := rfl
@[simp] theorem State.withW_DBUF (X : Block) : (s.withW X).DBUF = s.DBUF := rfl
@[simp] theorem State.withW_config (X : Block) : (s.withW X).config = s.config := rfl
@[simp] theorem State.withW_pending (X : Block) : (s.withW X).pending = s.pending := rfl
@[simp] theorem State.withW_reads (X : Block) : (s.withW X).reads = s.reads := rfl

/-! ### `State.withDBUF` -/

@[simp] theorem State.withDBUF_S (B : Vector Byte 64) : (s.withDBUF B).S = s.S := rfl
@[simp] theorem State.withDBUF_W (B : Vector Byte 64) : (s.withDBUF B).W = s.W := rfl
@[simp] theorem State.withDBUF_ROUNDS (B : Vector Byte 64) : (s.withDBUF B).ROUNDS = s.ROUNDS := rfl
@[simp] theorem State.withDBUF_KEYED (B : Vector Byte 64) : (s.withDBUF B).KEYED = s.KEYED := rfl
@[simp] theorem State.withDBUF_FAULTED (B : Vector Byte 64) : (s.withDBUF B).FAULTED = s.FAULTED := rfl
@[simp] theorem State.withDBUF_FCODE (B : Vector Byte 64) : (s.withDBUF B).FCODE = s.FCODE := rfl
@[simp] theorem State.withDBUF_FAULT_CMD (B : Vector Byte 64) : (s.withDBUF B).FAULT_CMD = s.FAULT_CMD := rfl
@[simp] theorem State.withDBUF_KEYBUF (B : Vector Byte 64) : (s.withDBUF B).KEYBUF = s.KEYBUF := rfl
@[simp] theorem State.withDBUF_NONCEBUF (B : Vector Byte 64) : (s.withDBUF B).NONCEBUF = s.NONCEBUF := rfl
@[simp] theorem State.withDBUF_CTRBUF (B : Vector Byte 64) : (s.withDBUF B).CTRBUF = s.CTRBUF := rfl
@[simp] theorem State.withDBUF_DBUF (B : Vector Byte 64) : (s.withDBUF B).DBUF = B := rfl
@[simp] theorem State.withDBUF_config (B : Vector Byte 64) : (s.withDBUF B).config = s.config := rfl
@[simp] theorem State.withDBUF_pending (B : Vector Byte 64) : (s.withDBUF B).pending = s.pending := rfl
@[simp] theorem State.withDBUF_reads (B : Vector Byte 64) : (s.withDBUF B).reads = s.reads := rfl

/-! ### `State.withInstance` -/

@[simp] theorem State.withInstance_S (X : Block) (r : BitVec 5) : (s.withInstance X r).S = X := rfl
@[simp] theorem State.withInstance_W (X : Block) (r : BitVec 5) : (s.withInstance X r).W = s.W := rfl
@[simp] theorem State.withInstance_ROUNDS (X : Block) (r : BitVec 5) : (s.withInstance X r).ROUNDS = r := rfl
@[simp] theorem State.withInstance_KEYED (X : Block) (r : BitVec 5) : (s.withInstance X r).KEYED = true := rfl
@[simp] theorem State.withInstance_FAULTED (X : Block) (r : BitVec 5) : (s.withInstance X r).FAULTED = s.FAULTED := rfl
@[simp] theorem State.withInstance_FCODE (X : Block) (r : BitVec 5) : (s.withInstance X r).FCODE = s.FCODE := rfl
@[simp] theorem State.withInstance_FAULT_CMD (X : Block) (r : BitVec 5) : (s.withInstance X r).FAULT_CMD = s.FAULT_CMD := rfl
@[simp] theorem State.withInstance_KEYBUF (X : Block) (r : BitVec 5) : (s.withInstance X r).KEYBUF = s.KEYBUF := rfl
@[simp] theorem State.withInstance_NONCEBUF (X : Block) (r : BitVec 5) : (s.withInstance X r).NONCEBUF = s.NONCEBUF := rfl
@[simp] theorem State.withInstance_CTRBUF (X : Block) (r : BitVec 5) : (s.withInstance X r).CTRBUF = s.CTRBUF := rfl
@[simp] theorem State.withInstance_DBUF (X : Block) (r : BitVec 5) : (s.withInstance X r).DBUF = s.DBUF := rfl
@[simp] theorem State.withInstance_config (X : Block) (r : BitVec 5) : (s.withInstance X r).config = s.config := rfl
@[simp] theorem State.withInstance_pending (X : Block) (r : BitVec 5) : (s.withInstance X r).pending = s.pending := rfl
@[simp] theorem State.withInstance_reads (X : Block) (r : BitVec 5) : (s.withInstance X r).reads = s.reads := rfl

/-! ### `State.withPending` -/

@[simp] theorem State.withPending_S (p : List HostStep) : (s.withPending p).S = s.S := rfl
@[simp] theorem State.withPending_W (p : List HostStep) : (s.withPending p).W = s.W := rfl
@[simp] theorem State.withPending_ROUNDS (p : List HostStep) : (s.withPending p).ROUNDS = s.ROUNDS := rfl
@[simp] theorem State.withPending_KEYED (p : List HostStep) : (s.withPending p).KEYED = s.KEYED := rfl
@[simp] theorem State.withPending_FAULTED (p : List HostStep) : (s.withPending p).FAULTED = s.FAULTED := rfl
@[simp] theorem State.withPending_FCODE (p : List HostStep) : (s.withPending p).FCODE = s.FCODE := rfl
@[simp] theorem State.withPending_FAULT_CMD (p : List HostStep) : (s.withPending p).FAULT_CMD = s.FAULT_CMD := rfl
@[simp] theorem State.withPending_KEYBUF (p : List HostStep) : (s.withPending p).KEYBUF = s.KEYBUF := rfl
@[simp] theorem State.withPending_NONCEBUF (p : List HostStep) : (s.withPending p).NONCEBUF = s.NONCEBUF := rfl
@[simp] theorem State.withPending_CTRBUF (p : List HostStep) : (s.withPending p).CTRBUF = s.CTRBUF := rfl
@[simp] theorem State.withPending_DBUF (p : List HostStep) : (s.withPending p).DBUF = s.DBUF := rfl
@[simp] theorem State.withPending_config (p : List HostStep) : (s.withPending p).config = s.config := rfl
@[simp] theorem State.withPending_pending (p : List HostStep) : (s.withPending p).pending = p := rfl
@[simp] theorem State.withPending_reads (p : List HostStep) : (s.withPending p).reads = s.reads := rfl

/-! ### `State.withRead` -/

@[simp] theorem State.withRead_S (v : Word) : (s.withRead v).S = s.S := rfl
@[simp] theorem State.withRead_W (v : Word) : (s.withRead v).W = s.W := rfl
@[simp] theorem State.withRead_ROUNDS (v : Word) : (s.withRead v).ROUNDS = s.ROUNDS := rfl
@[simp] theorem State.withRead_KEYED (v : Word) : (s.withRead v).KEYED = s.KEYED := rfl
@[simp] theorem State.withRead_FAULTED (v : Word) : (s.withRead v).FAULTED = s.FAULTED := rfl
@[simp] theorem State.withRead_FCODE (v : Word) : (s.withRead v).FCODE = s.FCODE := rfl
@[simp] theorem State.withRead_FAULT_CMD (v : Word) : (s.withRead v).FAULT_CMD = s.FAULT_CMD := rfl
@[simp] theorem State.withRead_KEYBUF (v : Word) : (s.withRead v).KEYBUF = s.KEYBUF := rfl
@[simp] theorem State.withRead_NONCEBUF (v : Word) : (s.withRead v).NONCEBUF = s.NONCEBUF := rfl
@[simp] theorem State.withRead_CTRBUF (v : Word) : (s.withRead v).CTRBUF = s.CTRBUF := rfl
@[simp] theorem State.withRead_DBUF (v : Word) : (s.withRead v).DBUF = s.DBUF := rfl
@[simp] theorem State.withRead_config (v : Word) : (s.withRead v).config = s.config := rfl
@[simp] theorem State.withRead_pending (v : Word) : (s.withRead v).pending = s.pending := rfl
@[simp] theorem State.withRead_reads (v : Word) : (s.withRead v).reads = v :: s.reads := rfl

/-! ### `raiseFault` -/

@[simp] theorem raiseFault_S (k : FaultCode) (v : Word) : (raiseFault k v s).S = s.S := rfl
@[simp] theorem raiseFault_W (k : FaultCode) (v : Word) : (raiseFault k v s).W = s.W := rfl
@[simp] theorem raiseFault_ROUNDS (k : FaultCode) (v : Word) : (raiseFault k v s).ROUNDS = s.ROUNDS := rfl
@[simp] theorem raiseFault_KEYED (k : FaultCode) (v : Word) : (raiseFault k v s).KEYED = s.KEYED := rfl
@[simp] theorem raiseFault_FAULTED (k : FaultCode) (v : Word) : (raiseFault k v s).FAULTED = true := rfl
@[simp] theorem raiseFault_FCODE (k : FaultCode) (v : Word) : (raiseFault k v s).FCODE = k.code := rfl
@[simp] theorem raiseFault_FAULT_CMD (k : FaultCode) (v : Word) : (raiseFault k v s).FAULT_CMD = v := rfl
@[simp] theorem raiseFault_KEYBUF (k : FaultCode) (v : Word) : (raiseFault k v s).KEYBUF = s.KEYBUF := rfl
@[simp] theorem raiseFault_NONCEBUF (k : FaultCode) (v : Word) : (raiseFault k v s).NONCEBUF = s.NONCEBUF := rfl
@[simp] theorem raiseFault_CTRBUF (k : FaultCode) (v : Word) : (raiseFault k v s).CTRBUF = s.CTRBUF := rfl
@[simp] theorem raiseFault_DBUF (k : FaultCode) (v : Word) : (raiseFault k v s).DBUF = s.DBUF := rfl
@[simp] theorem raiseFault_config (k : FaultCode) (v : Word) : (raiseFault k v s).config = s.config := rfl
@[simp] theorem raiseFault_pending (k : FaultCode) (v : Word) : (raiseFault k v s).pending = s.pending := rfl
@[simp] theorem raiseFault_reads (k : FaultCode) (v : Word) : (raiseFault k v s).reads = s.reads := rfl

/-! ### `resetEngine` -/

@[simp] theorem resetEngine_S : (resetEngine s).S = Vector.replicate 16 0 := rfl
@[simp] theorem resetEngine_W : (resetEngine s).W = Vector.replicate 16 0 := rfl
@[simp] theorem resetEngine_ROUNDS : (resetEngine s).ROUNDS = 0 := rfl
@[simp] theorem resetEngine_KEYED : (resetEngine s).KEYED = false := rfl
@[simp] theorem resetEngine_FAULTED : (resetEngine s).FAULTED = false := rfl
@[simp] theorem resetEngine_FCODE : (resetEngine s).FCODE = 0 := rfl
@[simp] theorem resetEngine_FAULT_CMD : (resetEngine s).FAULT_CMD = 0 := rfl
@[simp] theorem resetEngine_KEYBUF : (resetEngine s).KEYBUF = Vector.replicate 32 0 := rfl
@[simp] theorem resetEngine_NONCEBUF : (resetEngine s).NONCEBUF = Vector.replicate 8 0 := rfl
@[simp] theorem resetEngine_CTRBUF : (resetEngine s).CTRBUF = Vector.replicate 8 0 := rfl
@[simp] theorem resetEngine_DBUF : (resetEngine s).DBUF = Vector.replicate 64 0 := rfl
@[simp] theorem resetEngine_config : (resetEngine s).config = s.config := rfl
@[simp] theorem resetEngine_pending : (resetEngine s).pending = s.pending := rfl
@[simp] theorem resetEngine_reads : (resetEngine s).reads = s.reads := rfl

/-! ### `State.reset` -/

@[simp] theorem State.reset_S : State.reset.S = Vector.replicate 16 0 := rfl
@[simp] theorem State.reset_W : State.reset.W = Vector.replicate 16 0 := rfl
@[simp] theorem State.reset_ROUNDS : State.reset.ROUNDS = 0 := rfl
@[simp] theorem State.reset_KEYED : State.reset.KEYED = false := rfl
@[simp] theorem State.reset_FAULTED : State.reset.FAULTED = false := rfl
@[simp] theorem State.reset_FCODE : State.reset.FCODE = 0 := rfl
@[simp] theorem State.reset_FAULT_CMD : State.reset.FAULT_CMD = 0 := rfl
@[simp] theorem State.reset_KEYBUF : State.reset.KEYBUF = Vector.replicate 32 0 := rfl
@[simp] theorem State.reset_NONCEBUF : State.reset.NONCEBUF = Vector.replicate 8 0 := rfl
@[simp] theorem State.reset_CTRBUF : State.reset.CTRBUF = Vector.replicate 8 0 := rfl
@[simp] theorem State.reset_DBUF : State.reset.DBUF = Vector.replicate 64 0 := rfl
@[simp] theorem State.reset_config : State.reset.config = Config.default := rfl
@[simp] theorem State.reset_pending : State.reset.pending = [] := rfl
@[simp] theorem State.reset_reads : State.reset.reads = [] := rfl

end Sys2Proof.Machine
end

