-- ==== Sys2Proof/Laws/Ops.lean ====
section
/-! SUPPORT. Laws/Ops.lean: what each shared operation does, said once. -/

namespace Sys2Proof.Machine

/-! ### The checked command step -/

theorem issue_halted (i : Instr) (k : Option FaultCode) (f : State → State) (s : State)
    (h : s.FAULTED = true) : issue i k f s = .next s := by simp [issue, h]

theorem issue_fault (i : Instr) (k : FaultCode) (f : State → State) (s : State)
    (h : s.FAULTED = false) : issue i (some k) f s = .next (raiseFault k (encode i) s) := by
  simp [issue, h]

theorem issue_effect (i : Instr) (f : State → State) (s : State) (h : s.FAULTED = false) :
    issue i none f s = .next (f s) := by simp [issue, h]

/-- Everything the command step can do. -/
theorem issue_cases {i : Instr} {k : Option FaultCode} {f : State → State} {s t : State}
    (h : issue i k f s = .next t) :
    (s.FAULTED = true ∧ t = s) ∨
      (s.FAULTED = false ∧ ∃ c, k = some c ∧ t = raiseFault c (encode i) s) ∨
      (s.FAULTED = false ∧ k = none ∧ t = f s) := by
  unfold issue at h
  split at h
  · next hf => cases h; exact .inl ⟨hf, rfl⟩
  · next hf =>
    have hf : s.FAULTED = false := by simpa using hf
    split at h
    · next c => cases h; exact .inr (.inl ⟨hf, c, rfl, rfl⟩)
    · cases h; exact .inr (.inr ⟨hf, rfl, rfl⟩)

/-- The command step always answers a next state. -/
theorem issue_answers (i : Instr) (k : Option FaultCode) (f : State → State) (s : State) :
    ∃ t, issue i k f s = .next t := by
  unfold issue
  split
  · exact ⟨_, rfl⟩
  · split <;> exact ⟨_, rfl⟩

/-! ### The permutation -/

theorem addInto_get (a b i : Idx) (X : Block) :
    (addInto a b X)[i] = if i = a then X[a] + X[b] else X[i] := by
  simp only [addInto, Fin.getElem_fin, Vector.getElem_set, Fin.ext_iff, eq_comm]

theorem xorInto_get (a b i : Idx) (X : Block) :
    (xorInto a b X)[i] = if i = a then X[a] ^^^ X[b] else X[i] := by
  simp only [xorInto, Fin.getElem_fin, Vector.getElem_set, Fin.ext_iff, eq_comm]

theorem rotlInto_get (a i : Idx) (n : Nat) (X : Block) :
    (rotlInto a n X)[i] = if i = a then rotl X[a] n else X[i] := by
  simp only [rotlInto, Fin.getElem_fin, Vector.getElem_set, Fin.ext_iff, eq_comm]

/-- A rotation by 0 < n < 32 is the left rotation of bit vectors. -/
theorem rotl_eq_rotateLeft (x : Word) (n : Nat) (h : n < 32) : rotl x n = x.rotateLeft n := by
  simp [rotl, BitVec.rotateLeft, BitVec.rotateLeftAux, Nat.mod_eq_of_lt h]

/-- Half a quarter round writes only the words a and d. -/
theorem addXorRotl_other (a b d i : Idx) (n : Nat) (X : Block) (ha : i ≠ a) (hd : i ≠ d) :
    (addXorRotl a b d n X)[i] = X[i] := by
  simp only [addXorRotl, rotlInto_get, xorInto_get, addInto_get, if_neg ha, if_neg hd]

/-- A quarter round leaves the words at other indices unchanged (R130). -/
theorem quarterRound_other (a b c d i : Idx) (X : Block) (ha : i ≠ a) (hb : i ≠ b) (hc : i ≠ c)
    (hd : i ≠ d) : (quarterRound a b c d X)[i] = X[i] := by
  simp only [quarterRound, addXorRotl_other _ _ _ i _ _ ha hd, addXorRotl_other _ _ _ i _ _ hc hb]

theorem doubleRounds_succ (n : Nat) (X : Block) :
    doubleRounds (n + 1) X = doubleRounds n (doubleRound X) := rfl

theorem doubleRounds_eq_iterate (n : Nat) (X : Block) : doubleRounds n X = doubleRound^[n] X := by
  induction n generalizing X with
  | zero => rfl
  | succ n ih => rw [doubleRounds_succ, ih, Function.iterate_succ_apply]

/-! ### The block function's parts -/

/-- Counter setup writes words 12 and 13 and no others (R220). -/
theorem counterSetup_get (c : BitVec 64) (X : Block) (i : Idx) :
    (counterSetup c X)[i] =
      if i = 12 then counterLow c else if i = 13 then counterHigh c else X[i] := by
  revert i
  simp only [counterSetup, Fin.getElem_fin, Vector.getElem_set, Fin.ext_iff]
  intro i
  by_cases h12 : i.val = 12
  · simp [h12]
  · by_cases h13 : i.val = 13
    · simp [h13]
    · simp [h12, h13, Ne.symm h12, Ne.symm h13]

theorem feedForward_get (S W : Block) (i : Idx) : (feedForward S W)[i] = W[i] + S[i] := by
  simp [feedForward]

theorem serialize_get (W : Block) (k : Fin 64) :
    (serialize W)[k] = byteOf (W[k.val / 4]'(by omega)) (k.val % 4) := by
  simp [serialize]

theorem deserialize_get (B : Vector Byte 64) (i : Idx) :
    (deserialize B)[i] = le32at B (4 * i.val) := by
  simp [deserialize]

theorem xorBytes_get (B K : Vector Byte 64) (k : Fin 64) : (xorBytes B K)[k] = B[k] ^^^ K[k] := by
  simp [xorBytes]

theorem byteAt_eq {n : Nat} (B : Vector Byte n) (j : Nat) (h : j < n) : byteAt B j = B[j] := by
  simp [byteAt, h]

theorem le32at_toNat {n : Nat} (B : Vector Byte n) (j : Nat) (h : j + 3 < n) :
    (le32at B j).toNat =
      B[j].toNat + 256 * B[j + 1].toNat + 65536 * B[j + 2].toNat + 16777216 * B[j + 3].toNat := by
  rw [le32at, le32_toNat, byteAt_eq B _ (by omega), byteAt_eq B _ (by omega),
    byteAt_eq B _ (by omega), byteAt_eq B _ h]

/-- Both halves of a counter, put together, are the counter: nothing is truncated (R223). -/
theorem counter_halves (c : BitVec 64) :
    (counterLow c).toNat + 2 ^ 32 * (counterHigh c).toNat = c.toNat := by
  have h := c.isLt
  simp only [counterLow, counterHigh, BitVec.extractLsb'_toNat, Nat.shiftRight_eq_div_pow]
  omega

theorem le64_toNat {n : Nat} (B : Vector Byte n) (j : Nat) :
    (le64 B j).toNat = (le32at B j).toNat + 2 ^ 32 * (le32at B (j + 4)).toNat := by
  have h0 := (le32at B j).isLt
  have h1 := (le32at B (j + 4)).isLt
  simp only [le64, BitVec.toNat_ofNat]
  exact Nat.mod_eq_of_lt (by omega)

/-! ### What no command touches -/

/-- The fields outside a command's reach: the input ports (R27 to R29), the configuration and the host's side. -/
abbrev sameOutside (s t : State) : Prop :=
  t.KEYBUF = s.KEYBUF ∧ t.NONCEBUF = s.NONCEBUF ∧ t.CTRBUF = s.CTRBUF ∧
    t.config = s.config ∧ t.pending = s.pending ∧ t.reads = s.reads

/-- The command step keeps them if the effect does. -/
theorem issue_sameOutside {i : Instr} {k : Option FaultCode} {f : State → State} {s t : State}
    (hf : sameOutside s (f s)) (h : issue i k f s = .next t) : sameOutside s t := by
  obtain ⟨-, rfl⟩ | ⟨-, c, -, rfl⟩ | ⟨-, -, rfl⟩ := issue_cases h
  · simp [sameOutside]
  · simp [sameOutside]
  · exact hf

/-! ### The register window -/

/-- Where each row of the register map lies (R51). -/
theorem portAt_rows (off : Nat) :
    (portAt off = .status ↔ 0x04 ≤ off ∧ off < 0x08) ∧
    (portAt off = .faultCmd ↔ 0x08 ≤ off ∧ off < 0x0C) ∧
    (portAt off = .ctrbuf ↔ 0x10 ≤ off ∧ off < 0x18) ∧
    (portAt off = .noncebuf ↔ 0x18 ≤ off ∧ off < 0x20) ∧
    (portAt off = .keybuf ↔ 0x20 ≤ off ∧ off < 0x40) ∧
    (portAt off = .dbuf ↔ 0x40 ≤ off ∧ off < 0x80) := by
  unfold portAt
  refine ⟨?_, ?_, ?_, ?_, ?_, ?_⟩ <;> repeat' split
  all_goals simp; try omega

/-- A write within a buffer is an ordinary write. -/
theorem setIfInBounds_eq_set {n : Nat} (B : Vector Byte n) (k : Nat) (h : k < n) (b : Byte) :
    B.setIfInBounds k b = B.set k b h := by
  ext i hi : 1
  simp [Vector.getElem_setIfInBounds, Vector.getElem_set]

/-- The host steps still to come play no part in a byte write. -/
theorem writeByte_withPending (off : Nat) (b : Byte) (s : State) (p : List HostStep) :
    writeByte off b (s.withPending p) = (writeByte off b s).withPending p := by
  unfold writeByte
  split <;> rfl

/-- A byte write reaches the port buffers only. -/
theorem writeByte_engine (off : Nat) (b : Byte) (s : State) :
    (writeByte off b s).S = s.S ∧ (writeByte off b s).W = s.W ∧
      (writeByte off b s).ROUNDS = s.ROUNDS ∧ (writeByte off b s).KEYED = s.KEYED ∧
      (writeByte off b s).FAULTED = s.FAULTED ∧ (writeByte off b s).FCODE = s.FCODE ∧
      (writeByte off b s).FAULT_CMD = s.FAULT_CMD ∧ (writeByte off b s).config = s.config ∧
      (writeByte off b s).pending = s.pending ∧ (writeByte off b s).reads = s.reads := by
  unfold writeByte
  split <;> simp

/-- So does a write of any width. -/
theorem writeBytes_engine (off : Nat) (v : Word) (n : Nat) (s : State) :
    (writeBytes off v n s).S = s.S ∧ (writeBytes off v n s).W = s.W ∧
      (writeBytes off v n s).ROUNDS = s.ROUNDS ∧ (writeBytes off v n s).KEYED = s.KEYED ∧
      (writeBytes off v n s).FAULTED = s.FAULTED ∧ (writeBytes off v n s).FCODE = s.FCODE ∧
      (writeBytes off v n s).FAULT_CMD = s.FAULT_CMD ∧
      (writeBytes off v n s).config = s.config ∧
      (writeBytes off v n s).pending = s.pending ∧ (writeBytes off v n s).reads = s.reads := by
  induction n with
  | zero => simp [writeBytes]
  | succ n ih => simpa [writeBytes, writeByte_engine] using ih

/-- The access rules of `onWindow`: what `act` does, exactly for an access that keeps the contract (R54, R69). -/
theorem onWindow_eq (s : State) (addr n : Nat) (act : Nat → Result)
    (h : s.config.ENGINE_BASE ≤ addr) (h' : addr < s.config.ENGINE_BASE + 256)
    (hn : n = 1 ∨ n = 2 ∨ n = 4) (ha : (addr - s.config.ENGINE_BASE) % n = 0) :
    onWindow s addr n act = act (addr - s.config.ENGINE_BASE) := by
  unfold onWindow
  rw [if_neg (by omega), if_neg (not_not_intro hn), if_neg (not_not_intro ha)]

/-- An access that answers a next state kept the contract. -/
theorem onWindow_next {s : State} {addr n : Nat} {act : Nat → Result} {t : State}
    (h : onWindow s addr n act = .next t) :
    s.config.ENGINE_BASE ≤ addr ∧ addr < s.config.ENGINE_BASE + 256 ∧ (n = 1 ∨ n = 2 ∨ n = 4) ∧
      (addr - s.config.ENGINE_BASE) % n = 0 ∧ act (addr - s.config.ENGINE_BASE) = .next t := by
  unfold onWindow at h
  split at h
  · cases h
  · split at h
    · cases h
    · split at h
      · cases h
      · next h1 h2 h3 => exact ⟨by omega, by omega, not_not.mp h2, not_not.mp h3, h⟩

/-- A command word issued to the engine runs `command` on it (R59). -/
theorem hostStep_issueWord (s : State) (v : Word) : hostStep (issueWord s v) s = command v s := by
  unfold hostStep issueWord
  simp only
  rw [onWindow_eq _ _ _ _ (Nat.le_refl _) (by omega) (by omega) (by simp)]
  simp [writeAccess]

end Sys2Proof.Machine
end

