-- ==== Sys2Proof/Laws/Exec.lean ====
section
/-! SUPPORT. Laws/Exec.lean: everything a command and a step can do, said once; later proofs cite these and do not unfold the
meanings. -/

namespace Sys2Proof.Machine

/-! ### Commands -/

/-- The first failing check of a command that has been decoded (30_encoding.md R96). -/
def commandCause : Instr → State → Option FaultCode
  | .nop, _ => none
  | .init r, _ => requireRounds r
  | .setctr, s => requireKeyed s
  | .gen l, s => requireKeyed s <|> requireLength l
  | .apply l, s => requireKeyed s <|> requireLength l
  | .qr _ _ _ _, s => requireDebug s
  | .dr, s => requireDebug s
  | .ldw, s => requireDebug s <|> requireKeyed s
  | .ffw, s => requireDebug s <|> requireKeyed s
  | .wload l, s => requireDebug s <|> requireLength l
  | .wstore l, s => requireDebug s <|> requireLength l

/-- What a command writes once its checks have passed. -/
def commandEffect : Instr → State → State
  | .nop, s => s
  | .init r, s => s.withInstance (initState s.KEYBUF s.NONCEBUF) r
  | .setctr, s => s.withS (counterSetup (counterOf s) s.S)
  | .gen _, s => (computeBlock s).withDBUF (serialize (computeBlock s).W)
  | .apply _, s => (computeBlock s).withDBUF (xorBytes (computeBlock s).DBUF (serialize (computeBlock s).W))
  | .qr a b c d, s => s.withW (quarterRound a b c d s.W)
  | .dr, s => s.withW (doubleRound s.W)
  | .ldw, s => s.withW s.S
  | .ffw, s => s.withW (feedForward s.S s.W)
  | .wload _, s => s.withW (deserialize s.DBUF)
  | .wstore _, s => s.withDBUF (serialize s.W)

/-- Every command is the checked command step with its cause and its effect. -/
theorem exec_eq_issue (i : Instr) (s : State) :
    exec i s = issue i (commandCause i s) (commandEffect i) s := by
  cases i <;> rfl

theorem exec_halted (i : Instr) {s : State} (h : s.FAULTED = true) : exec i s = .next s := by
  rw [exec_eq_issue, issue_halted _ _ _ _ h]

theorem exec_effect {i : Instr} {s : State} (h : s.FAULTED = false) (hc : commandCause i s = none) :
    exec i s = .next (commandEffect i s) := by
  rw [exec_eq_issue, hc, issue_effect _ _ _ h]

theorem exec_fault {i : Instr} {s : State} {k : FaultCode} (h : s.FAULTED = false)
    (hc : commandCause i s = some k) : exec i s = .next (raiseFault k (encode i) s) := by
  rw [exec_eq_issue, hc, issue_fault _ _ _ _ h]

/-- Everything a command can do: nothing (halted), take its fault, or have its effect. -/
theorem exec_cases {i : Instr} {s t : State} (h : exec i s = .next t) :
    (s.FAULTED = true ∧ t = s) ∨
      (s.FAULTED = false ∧ ∃ k, commandCause i s = some k ∧ t = raiseFault k (encode i) s) ∨
      (s.FAULTED = false ∧ commandCause i s = none ∧ t = commandEffect i s) := by
  rw [exec_eq_issue] at h
  exact issue_cases h

/-- No effect halts the engine or frees it. -/
theorem commandEffect_FAULTED (i : Instr) (s : State) : (commandEffect i s).FAULTED = s.FAULTED := by
  cases i <;> simp [commandEffect, computeBlock]

theorem computeBlock_eq (s : State) :
    computeBlock s = (s.withS (counterSetup (counterOf s) s.S)).withW
      (outputWords (counterSetup (counterOf s) s.S) s.ROUNDS) := rfl

/-! ### The command step on words -/

theorem command_of_decode {s : State} {v : Word} {i : Instr}
    (h : decode s.config.DEBUG_CMDS v = .ok i) : command v s = exec i s := by
  unfold command
  rw [h]
  split
  · next hf => rw [exec_halted i hf]
  · rfl

theorem command_of_illegal {s : State} {v : Word} (hf : s.FAULTED = false)
    (h : ∀ i, decode s.config.DEBUG_CMDS v ≠ .ok i) :
    command v s = .next (raiseFault .illegalCmd v s) := by
  unfold command
  rw [if_neg (by simp [hf])]
  split
  · next i hi => exact absurd hi (h i)
  · rfl

/-! ### Steps -/

/-- What a read returns does not depend on the host's side of the state. -/
theorem readBytes_withPending (s : State) (p : List HostStep) (off n : Nat) :
    readBytes (s.withPending p) off n = readBytes s off n := by
  have : readSum (s.withPending p) off n = readSum s off n := by
    induction n with
    | zero => rfl
    | succ n ih => simp only [readSum, ih]; rfl
  rw [readBytes, this, readBytes]

/-- A host step that writes a word to CMD. -/
theorem step_command {s : State} {v : Word} {rest : List HostStep}
    (hp : s.pending = .write s.config.ENGINE_BASE 4 v :: rest) :
    step s = command v (s.withPending rest) := by
  simp only [step, nextHostStep, hp]
  exact hostStep_issueWord (s.withPending rest) v

/-- A read access that keeps the contract. -/
theorem step_readAccess {s : State} {addr n : Nat} {rest : List HostStep}
    (h : s.config.ENGINE_BASE ≤ addr) (h' : addr < s.config.ENGINE_BASE + 256)
    (hn : n = 1 ∨ n = 2 ∨ n = 4) (ha : (addr - s.config.ENGINE_BASE) % n = 0)
    (hp : s.pending = .read addr n :: rest) :
    step s = .next ((s.withPending rest).withRead (readBytes s (addr - s.config.ENGINE_BASE) n)) := by
  simp only [step, nextHostStep, hp, hostStep]
  rw [onWindow_eq (s.withPending rest) _ _ _ h h' hn ha, readAccess, readBytes_withPending]
  rfl

/-- A write access that keeps the contract and is not a command. -/
theorem step_writeAccess {s : State} {addr n : Nat} {v : Word} {rest : List HostStep}
    (h : s.config.ENGINE_BASE ≤ addr) (h' : addr < s.config.ENGINE_BASE + 256)
    (hn : n = 1 ∨ n = 2 ∨ n = 4) (ha : (addr - s.config.ENGINE_BASE) % n = 0)
    (hc : ¬(addr = s.config.ENGINE_BASE ∧ n = 4)) (hp : s.pending = .write addr n v :: rest) :
    step s = .next (writeBytes (addr - s.config.ENGINE_BASE) v n (s.withPending rest)) := by
  simp only [step, nextHostStep, hp, hostStep]
  rw [onWindow_eq (s.withPending rest) _ _ _ h h' hn ha, writeAccess, if_neg]
  · rfl
  · simp only [State.withPending_config]
    omega

/-- Everything a step can do. -/
theorem step_cases {s t : State} (h : step s = .next t) :
    (s.pending = [] ∧ t = s) ∨
    (∃ rest, s.pending = .reset :: rest ∧ t = resetEngine (s.withPending rest)) ∨
    (∃ rest addr n, s.pending = .read addr n :: rest ∧
      t = (s.withPending rest).withRead (readBytes s (addr - s.config.ENGINE_BASE) n)) ∨
    (∃ rest v, s.pending = .write s.config.ENGINE_BASE 4 v :: rest ∧
      command v (s.withPending rest) = .next t) ∨
    (∃ rest addr n v, s.pending = .write addr n v :: rest ∧
      s.config.ENGINE_BASE ≤ addr ∧ addr < s.config.ENGINE_BASE + 256 ∧ (n = 1 ∨ n = 2 ∨ n = 4) ∧
      (addr - s.config.ENGINE_BASE) % n = 0 ∧ ¬(addr = s.config.ENGINE_BASE ∧ n = 4) ∧
      t = writeBytes (addr - s.config.ENGINE_BASE) v n (s.withPending rest)) := by
  have h0 := h
  simp only [step, nextHostStep] at h
  split at h
  · next hp => cases h; exact .inl ⟨hp, rfl⟩
  · next a rest hp =>
    cases a with
    | reset =>
      simp only [hostStep] at h
      cases h
      exact .inr (.inl ⟨rest, hp, rfl⟩)
    | read addr n =>
      simp only [hostStep] at h
      obtain ⟨h1, h2, h3, h4, -⟩ := onWindow_next h
      rw [step_readAccess (s := s) h1 h2 h3 h4 hp] at h0
      cases h0
      exact .inr (.inr (.inl ⟨rest, addr, n, hp, rfl⟩))
    | write addr n v =>
      simp only [hostStep] at h
      obtain ⟨h1, h2, h3, h4, -⟩ := onWindow_next h
      by_cases hn : addr = s.config.ENGINE_BASE ∧ n = 4
      · obtain ⟨rfl, rfl⟩ := hn
        rw [step_command hp] at h0
        exact .inr (.inr (.inr (.inl ⟨rest, v, hp, h0⟩)))
      · rw [step_writeAccess (s := s) h1 h2 h3 h4 hn hp] at h0
        cases h0
        exact .inr (.inr (.inr (.inr ⟨rest, addr, n, v, hp, h1, h2, h3, h4, hn, rfl⟩)))

end Sys2Proof.Machine
end

