-- ==== Sys2Proof/Laws/PerInstr.lean ====
section
/-! SUPPORT. Laws/PerInstr.lean: facts about every command as syntax, one lemma per constructor. -/

namespace Sys2Proof.Laws.FitsOpcodeMap

/-- The encoded word fits the command's row of the opcode map: `v & mask = match` (30_encoding.md R87). -/
def Statement (i : Instr) : Prop := encode i &&& i.maskBits = i.matchBits

/-- A LEN field lies outside the mask of format L. -/
theorem lenAt_masked : ∀ l : BitVec 7, lenAt l &&& 0xFFFFF80F = 0 := by decide +kernel

/-- A ROUNDS_F field lies outside the mask of format R. -/
theorem roundsAt_masked : ∀ r : BitVec 5, roundsAt r &&& 0xFFFFFE0F = 0 := by decide

/-- An index field lies outside the mask of format Q. -/
theorem idxAt_masked : ∀ a : Idx, idxAt a 4 &&& 0xFFF0000F = 0 ∧ idxAt a 8 &&& 0xFFF0000F = 0 ∧
    idxAt a 12 &&& 0xFFF0000F = 0 ∧ idxAt a 16 &&& 0xFFF0000F = 0 := by decide

theorem nop : Statement .nop := by unfold Statement; decide

theorem init (rounds : BitVec 5) : Statement (.init rounds) := by
  simp only [Statement, encode, Instr.maskBits, Instr.matchBits, BitVec.and_or_distrib_right, roundsAt_masked]
  decide

theorem setctr : Statement .setctr := by unfold Statement; decide

theorem gen (len : BitVec 7) : Statement (.gen len) := by
  simp only [Statement, encode, Instr.maskBits, Instr.matchBits, BitVec.and_or_distrib_right, lenAt_masked]
  decide

theorem apply (len : BitVec 7) : Statement (.apply len) := by
  simp only [Statement, encode, Instr.maskBits, Instr.matchBits, BitVec.and_or_distrib_right, lenAt_masked]
  decide

theorem qr (a b c d : Idx) : Statement (.qr a b c d) := by
  simp only [Statement, encode, Instr.maskBits, Instr.matchBits, BitVec.and_or_distrib_right, idxAt_masked]
  decide

theorem dr : Statement .dr := by unfold Statement; decide

theorem ldw : Statement .ldw := by unfold Statement; decide

theorem ffw : Statement .ffw := by unfold Statement; decide

theorem wload (len : BitVec 7) : Statement (.wload len) := by
  simp only [Statement, encode, Instr.maskBits, Instr.matchBits, BitVec.and_or_distrib_right, lenAt_masked]
  decide

theorem wstore (len : BitVec 7) : Statement (.wstore len) := by
  simp only [Statement, encode, Instr.maskBits, Instr.matchBits, BitVec.and_or_distrib_right, lenAt_masked]
  decide

end Sys2Proof.Laws.FitsOpcodeMap
end

