-- ==== Sys2Proof/Tests/Slice0.lean ====
section
/-! SUPPORT. Tests/Slice0.lean: the model's own tests, on values of spec/ (a test's docstring names their source; rule and
L numbers without a file are those of 95_test_vectors.md), and a witness for the hypotheses of every obligation that has
some. -/

open Sys2Proof Sys2Proof.Machine Sys2Proof.Claims

namespace Sys2Proof.Tests

-- One theorem at a time: in parallel, their threads' stacks alone come near the check's memory limit.
set_option Elab.async false

/-! ### Small states -/

/-- After `init 20` with zero key and nonce (L1.3). -/
def keyed : State :=
  { State.reset with
    S := #v[0x61707865, 0x3320646e, 0x79622d32, 0x6b206574, 0, 0, 0, 0, 0, 0, 0, 0, 0, 0, 0, 0]
    ROUNDS := 20, KEYED := true }

/-- Reset, on an engine without the primitive commands whose window is elsewhere. -/
def noDebug : State := { State.reset with config := { ENGINE_BASE := 0x4000, DEBUG_CMDS := false } }

/-- The engine halted by `gen 64` from reset (program P4, line 1). -/
def haltedGen : State := { State.reset with FAULTED := true, FCODE := 4, FAULT_CMD := 0x00000403 }

/-- W[i] = i. -/
def countingW : State := { State.reset with W := Vector.ofFn fun i : Fin 16 => BitVec.ofNat 32 i.val }

/-- DBUF[j] = j. -/
def countingBuffer : Vector Byte 64 := Vector.ofFn fun j : Fin 64 => BitVec.ofNat 8 j.val

/-- The state with these host steps pending. -/
def pend (s : State) (p : List HostStep) : State := { s with pending := p }

/-- The outcome is a next state with this property. -/
def next? (r : Result) (p : State → Bool) : Bool :=
  match r with
  | .next t => p t
  | .fault _ => false
  | .refused _ => false

/-- The outcome is this next state. -/
def answers (r : Result) (t : State) : Bool := next? r fun u => u == t

/-- The outcome is a refusal. -/
def refused? : Result → Bool
  | .next _ => false
  | .fault _ => false
  | .refused _ => true

/-- The word decodes to this command. -/
def decodes (debugCmds : Bool) (v : Word) (i : Instr) : Bool :=
  match decode debugCmds v with
  | .ok j => i == j
  | .error _ => false

/-- The word is illegal for this cause. -/
def illegal (debugCmds : Bool) (v : Word) (e : Illegal) : Bool :=
  match decode debugCmds v with
  | .ok _ => false
  | .error e' => e == e'

/-! ### Decoding and encoding -/

/-- The words of R87's canonical list and of the worked examples of the command rules. -/
theorem test_decode_words :
    (decodes true 0x00000000 .nop && decodes true 0x00000081 (.init 8) && decodes true 0x000000C1 (.init 12) &&
     decodes true 0x00000141 (.init 20) && decodes true 0x00000002 .setctr && decodes true 0x00000403 (.gen 64) &&
     decodes true 0x00000404 (.apply 64) && decodes true 0x000C8405 (.qr 0 4 8 12) &&
     decodes true 0x000D8725 (.qr 2 7 8 13) && decodes true 0x00000006 .dr && decodes true 0x00000007 .ldw &&
     decodes true 0x00000008 .ffw && decodes true 0x00000409 (.wload 64) &&
     decodes true 0x0000040A (.wstore 64)) = true := by decide +kernel

/-- Out-of-range operands decode (R87; words of L1.7, L1.8, L2.1, L2.8). -/
theorem test_decode_operands :
    (decodes true 0x00000071 (.init 7) && decodes true 0x000001F1 (.init 31) && decodes true 0x000003F3 (.gen 63) &&
     decodes true 0x00000413 (.gen 65) && decodes true 0x00000414 (.apply 65) &&
     decodes true 0x000003F9 (.wload 63)) = true := by decide +kernel

/-- Reserved opcodes and reserved bits (L2.1). -/
theorem test_decode_illegal :
    (illegal true 0x0000000B .reservedOpcode && illegal true 0xFFFFFFFF .reservedOpcode &&
     illegal true 0x00000010 .reservedBits && illegal true 0x00000341 .reservedBits &&
     illegal true 0x00000401 .reservedBits && illegal true 0x00000C03 .reservedBits &&
     illegal true 0x00100005 .reservedBits) = true := by decide +kernel

/-- R90: without DEBUG_CMDS opcodes 0x5 to 0xA are illegal, the others are not touched. -/
theorem test_decode_without_debug :
    (illegal false 0x000C8405 .debugDisabled && illegal false 0x00000006 .debugDisabled &&
     illegal false 0x00000007 .debugDisabled && illegal false 0x00000008 .debugDisabled &&
     illegal false 0x00000409 .debugDisabled && illegal false 0x0000040A .debugDisabled &&
     illegal false 0xFFFFFFF6 .debugDisabled && decodes false 0x00000403 (.gen 64)) = true := by decide +kernel

/-- Four bytes are one command, the first the least significant (R80); fewer are none. -/
theorem test_decode_bytes :
    (match decodeBytes true [0x05, 0x84, 0x0C, 0x00, 0xAA] with
      | .ok (i, rest) => i == .qr 0 4 8 12 && rest == [0xAA]
      | .error _ => false) = true ∧
    (match decodeBytes true [0x05, 0x84, 0x0C] with
      | .ok _ => false
      | .error e => e == .truncated) = true := by decide +kernel

theorem test_decode_table_word :
    decodeTableWord 32 0x000D8725 = some (.qr 2 7 8 13) ∧ decodeTableWord 32 0x0000000B = none ∧
    decodeTableWord 8 0x02 = some .setctr := by decide +kernel

/-- The "encodes" column of R94, one line of each format. -/
theorem test_encode :
    encode (.init 20) = 0x00000141 ∧ encode (.gen 63) = 0x000003F3 ∧ encode (.qr 2 7 8 13) = 0x000D8725 ∧
    encode (.wstore 64) = 0x0000040A ∧ encode .setctr = 0x00000002 := by decide +kernel

/-- The check on commands refuses each primitive command on an engine without them (R90), and no other. -/
theorem test_wellFormed_refuses :
    WellFormed false (.qr 0 4 8 12) = false ∧ WellFormed false .dr = false ∧ WellFormed false .ldw = false ∧
    WellFormed false .ffw = false ∧ WellFormed false (.wload 64) = false ∧ WellFormed false (.wstore 64) = false ∧
    WellFormed false (.gen 64) = true ∧ WellFormed true (.qr 0 4 8 12) = true := by decide

/-- R94: lines, an operand left out, and operands outside their fields. -/
theorem test_assemble :
    assemble (.init 20) = some 0x00000141 ∧ assemble (.gen none) = some 0x00000403 ∧
    assemble (.qr 2 7 8 13) = some 0x000D8725 ∧ assemble (.init 32) = none ∧ assemble (.gen (some 128)) = none ∧
    assemble (.qr 0 16 0 0) = none ∧ assemble (.word 0xB) = some 0x0000000B := by decide +kernel

/-- R94: the text of a line (program P5, line 3; program P4, line 8). -/
theorem test_parse_line :
    parseLine ['q', 'r', ' ', '2', ',', ' ', '7', ',', ' ', '8', ',', ' ', '1', '3'] = some (.line (.qr 2 7 8 13)) ∧
    parseLine ['.', 'w', 'o', 'r', 'd', ' ', '0', 'x', 'B'] = some (.line (.word 0xB)) ∧
    parseLine ['g', 'e', 'n'] = some (.line (.gen none)) ∧
    parseLine ['q', 'r', ' ', '2', ',', '7'] = none := by decide +kernel

/-- R95: pseudo-operations (program P1, line 4; program P2, lines 2 to 13, for two rounds). -/
theorem test_expand :
    (HostOp.setctr64 0x0900000000000001).expand 0 = some [.write 0x10 4 0x00000001, .write 0x14 4 0x09000000] ∧
    (HostOp.block 2).expand 0 = some [.write 0 4 0x00000007, .write 0 4 0x00000006, .write 0 4 0x00000008] ∧
    (HostOp.permute 3).expand 0 = none ∧ HostOp.rdstatus.expand 0 = some [.read 0x04 4] := by decide +kernel

/-! ### Commands -/

/-- R240 and L2.9: from STATUS 0x00001401 and while halted. -/
theorem test_nop : exec .nop keyed = .next keyed ∧ exec .nop haltedGen = .next haltedGen := ⟨rfl, rfl⟩

/-- R114, worked example. -/
theorem test_init :
    next? (exec (.init 20)
      { State.reset with
        KEYBUF := Vector.ofFn fun j : Fin 32 => BitVec.ofNat 8 j.val
        NONCEBUF := #v[0, 0, 0, 0x4a, 0, 0, 0, 0] })
      (fun t => statusWord t == 0x00001401 &&
        t.S == #v[0x61707865, 0x3320646e, 0x79622d32, 0x6b206574, 0x03020100, 0x07060504, 0x0b0a0908, 0x0f0e0d0c,
          0x13121110, 0x17161514, 0x1b1a1918, 0x1f1e1d1c, 0, 0, 0x4a000000, 0]) = true := by decide +kernel

/-- L1.7: rounds outside the set, from reset. -/
theorem test_init_boundary :
    ([0x00000071, 0x00000091, 0x00000151, 0x00000001, 0x000001F1] : List Word).all (fun v =>
      next? (command v State.reset) fun t => statusWord t == 0x00000022 && t.FAULT_CMD == v && !t.KEYED) = true ∧
    next? (command 0x00000081 State.reset) (fun t => statusWord t == 0x00000801) = true ∧
    next? (command 0x000000C1 State.reset) (fun t => statusWord t == 0x00000C01) = true := by decide +kernel

/-- L2.4. -/
theorem test_setctr :
    next? (exec .setctr { keyed with CTRBUF := #v[0xef, 0xcd, 0xab, 0x89, 0x67, 0x45, 0x23, 0x01] })
      (fun t => t.S[12] == 0x89abcdef && t.S[13] == 0x01234567 && t.S[11] == 0 && t.S[14] == 0) = true := by
  decide +kernel

/-- L1.5 and the wrap-around of R132. -/
theorem test_qr :
    next? (exec (.qr 0 4 8 12)
      { State.reset with W := #v[0x11111111, 0, 0, 0, 0x01020304, 0, 0, 0, 0x9b8d6f43, 0, 0, 0, 0x01234567, 0, 0, 0] })
      (fun t => t.W ==
        #v[0xea2a92f4, 0, 0, 0, 0xcb1cf8ce, 0, 0, 0, 0x4581472e, 0, 0, 0, 0x5881c4bb, 0, 0, 0]) = true ∧
    next? (exec (.qr 0 4 8 12)
      { State.reset with W := #v[0xffffffff, 0, 0, 0, 1, 0, 0, 0, 0, 0, 0, 0, 0, 0, 0, 0] })
      (fun t => t.W ==
        #v[0x00001000, 0, 0, 0, 0x08080000, 0, 0, 0, 0x00100000, 0, 0, 0, 0x00100000, 0, 0, 0]) = true := by
  decide +kernel

/-- R133: equal indices, from W[i] = i. -/
theorem test_qr_equal_indices :
    next? (exec (.qr 5 5 6 7) countingW) (fun t => t.W ==
      #v[0, 1, 2, 3, 4, 0x46405356, 0x0c8d00a6, 0x0c8000a0, 8, 9, 10, 11, 12, 13, 14, 15]) = true ∧
    next? (exec (.qr 0 1 0 1) { State.reset with W := (Vector.replicate 16 0).set 0 3 |>.set 1 5 }) (fun t =>
      t.W[0] == 0x0d0d8808 && t.W[1] == 0x06c00400) = true := by decide +kernel

/-- R154, worked example. -/
theorem test_dr :
    next? (exec .dr countingW) (fun t => t.W ==
      #v[0xa9295c6a, 0xb471be7a, 0x38e65ec4, 0x74348b87, 0xf1ad76c6, 0x7b44627b, 0x946682b0, 0xf12f4910,
        0xd7e22f80, 0x3232ddd4, 0xb5b3b74d, 0xc0240444, 0xc8a5de45, 0xe417e1d3, 0x1a392478, 0x983c4ebf]) = true := by
  decide +kernel

/-- R173, worked example (L1.4): S, ROUNDS and CTRBUF as after its first three lines. -/
theorem test_gen :
    next? (exec (.gen 64)
      { State.reset with
        S := #v[0x61707865, 0x3320646e, 0x79622d32, 0x6b206574, 0x03020100, 0x07060504, 0x0b0a0908, 0x0f0e0d0c,
          0x13121110, 0x17161514, 0x1b1a1918, 0x1f1e1d1c, 0, 0, 0x4a000000, 0]
        ROUNDS := 20, KEYED := true, CTRBUF := #v[1, 0, 0, 0, 0, 0, 0, 9] })
      (fun t => t.S[12] == 0x00000001 && t.S[13] == 0x09000000 &&
        t.W == #v[0xe4e7f110, 0x15593bd1, 0x1fdd0f50, 0xc47120a3, 0xc7f4d1c7, 0x0368c033, 0x9aaa2204, 0x4e6cd4c3,
          0x466482d2, 0x09aa9f07, 0x05d7c214, 0xa2028bd9, 0xd19c12b5, 0xb94e16de, 0xe883d0cb, 0x4e3c50a2] &&
        readBytes t 0x40 4 == 0xe4e7f110 && readBytes t 0x7C 4 == 0x4e3c50a2) = true := by decide +kernel

/-- L2.6, `init 12` with zero key and nonce, counter 0: the first and last words of DBUF. -/
theorem test_gen_twelve_rounds :
    next? (exec (.gen 64) { keyed with ROUNDS := 12 })
      (fun t => readBytes t 0x40 4 == 0x6a9af49b && readBytes t 0x7C 4 == 0xbe261341) = true := by decide +kernel

/-- L2.7: 64 bytes of 0x41 under the zero key and counter. -/
theorem test_apply :
    next? (exec (.apply 64) { keyed with DBUF := Vector.replicate 64 0x41 })
      (fun t => readBytes t 0x40 4 == 0xeca1f937 && readBytes t 0x7C 4 == 0xc724aff3 &&
        t.W[0] == 0xade0b876) = true := by decide +kernel

/-- L1.8: buffer lengths outside the contract, from STATUS 0x00001401. -/
theorem test_length_boundary :
    ([0x000003F3, 0x00000413, 0x000003F4, 0x00000414, 0x000003F9] : List Word).all (fun v =>
      next? (command v keyed) fun t =>
        statusWord t == 0x00001433 && t.FAULT_CMD == v && t.DBUF == keyed.DBUF && t.W == keyed.W) = true := by
  decide +kernel

/-- R175, worked example. -/
theorem test_ldw : next? (exec .ldw keyed) (fun t => t.W == keyed.S && t.S == keyed.S) = true := by decide +kernel

/-- R176, worked example: the addition wraps. -/
theorem test_ffw :
    next? (exec .ffw { keyed with W := (Vector.replicate 16 0).set 0 0xffffffff }) (fun t => t.W ==
      #v[0x61707864, 0x3320646e, 0x79622d32, 0x6b206574, 0, 0, 0, 0, 0, 0, 0, 0, 0, 0, 0, 0]) = true := by
  decide +kernel

/-- R177, worked example. -/
theorem test_wload :
    next? (exec (.wload 64) { State.reset with DBUF := countingBuffer }) (fun t => t.W ==
      #v[0x03020100, 0x07060504, 0x0b0a0908, 0x0f0e0d0c, 0x13121110, 0x17161514, 0x1b1a1918, 0x1f1e1d1c,
        0x23222120, 0x27262524, 0x2b2a2928, 0x2f2e2d2c, 0x33323130, 0x37363534, 0x3b3a3938, 0x3f3e3d3c]) = true := by
  decide +kernel

/-- R178, worked example. -/
theorem test_wstore :
    next? (exec (.wstore 64)
      { State.reset with
        W := #v[0x03020100, 0x07060504, 0x0b0a0908, 0x0f0e0d0c, 0x13121110, 0x17161514, 0x1b1a1918, 0x1f1e1d1c,
          0x23222120, 0x27262524, 0x2b2a2928, 0x2f2e2d2c, 0x33323130, 0x37363534, 0x3b3a3938, 0x3f3e3d3c] })
      (fun t => t.DBUF == countingBuffer) = true := by decide +kernel

/-- L2.1: illegal words and commands without an instance, from reset. -/
theorem test_faults_from_reset :
    ([0x00000010, 0x0000000B, 0xFFFFFFFF, 0x00000341, 0x00000C03, 0x00000401] : List Word).all (fun v =>
      next? (command v State.reset) fun t => statusWord t == 0x00000012 && t.FAULT_CMD == v) = true ∧
    ([0x00000002, 0x00000403, 0x00000413, 0x00000007] : List Word).all (fun v =>
      next? (command v State.reset) fun t => statusWord t == 0x00000042 && t.FAULT_CMD == v) = true ∧
    next? (command 0x00000006 noDebug) (fun t => statusWord t == 0x00000012) = true := by decide +kernel

/-- Program P4, line 2: a halted engine ignores `init 20`. -/
theorem test_halted :
    answers (command 0x00000141 haltedGen) haltedGen = true ∧ statusWord haltedGen = 0x00000042 := by
  decide +kernel

/-! ### Steps -/

/-- L2.2: reads after a 32-bit write to CTRBUF, and reads of rows that return 0. -/
theorem test_window_reads :
    let s := { State.reset with
      CTRBUF := #v[0xef, 0xcd, 0xab, 0x89, 0, 0, 0, 0], KEYBUF := (Vector.replicate 32 0).set 1 1 }
    readBytes s 0x10 1 = 0xef ∧ readBytes s 0x13 1 = 0x89 ∧ readBytes s 0x12 2 = 0x89ab ∧
    readBytes s 0x20 4 = 0 ∧ readBytes s 0x00 4 = 0 ∧ readBytes s 0x0C 4 = 0 ∧ readBytes s 0xFC 4 = 0 := by
  decide +kernel

/-- L2.2: a 32-bit write to CTRBUF; writes to CMD (8-bit) and to STATUS that are ignored. -/
theorem test_window_writes :
    next? (step (pend State.reset [.write 0x10 4 0x89abcdef]))
      (fun t => t.CTRBUF == #v[0xef, 0xcd, 0xab, 0x89, 0, 0, 0, 0] && t.pending == []) = true ∧
    answers (step (pend State.reset [.write 0x00 1 0x41])) State.reset = true ∧
    answers (step (pend State.reset [.write 0x04 4 0xffffffff])) State.reset = true := by decide +kernel

/-- L2.2: misaligned reads have no step, nor has a width of 3 (R54). -/
theorem test_no_step :
    (refused? (step (pend State.reset [.read 0x41 2])) && refused? (step (pend State.reset [.read 0x42 4])) &&
     refused? (step (pend State.reset [.read 0x42 3]))) = true := by decide +kernel

/-- Program P4, lines 3 and 4: reset leaves the halted state; R290. -/
theorem test_reset_step : answers (step (pend haltedGen [.reset])) State.reset = true := by decide +kernel

/-- A word placed by `withFetchWord` is the next command to run (L1.7, first row of the legal ones). -/
theorem test_fetch_word :
    next? (step (State.reset.withFetchWord 32 0x00000081)) (fun t => statusWord t == 0x00000801) = true ∧
    next? (step (noDebug.withFetchWord 32 0x00000006)) (fun t => statusWord t == 0x00000012) = true := by
  decide +kernel

/-! ### Witnesses: states and operands that meet all the hypotheses of an obligation -/

theorem witness_DecodeOfEncode :
    WellFormed true (.qr 15 0 15 0) = true ∧ WellFormed false (.gen 127) = true := by decide

theorem witness_EncodeOfDecode :
    decodes true 0x000FFFF5 (.qr 15 15 15 15) = true ∧ decodes false 0x000001F1 (.init 31) = true := by
  decide +kernel

theorem witness_StepRunsDecodedCommand :
    let s := pend noDebug [.write 0x4000 4 0x00000403, .reset]
    decode s.config.DEBUG_CMDS 0x00000403 = .ok (.gen 64) ∧
      s.pending = .write s.config.ENGINE_BASE 4 0x00000403 :: [.reset] := ⟨rfl, rfl⟩

/-- Halted, an illegal word, and a decoded command with each cause and with none. -/
theorem witness_FirstCauseWins :
    haltedGen.FAULTED = true ∧
    (running State.reset ∧ ∀ i, decode State.reset.config.DEBUG_CMDS 0x0000000B ≠ .ok i) ∧
    (decode true 0x00000413 = .ok (.gen 65) ∧ requiresInstance (.gen 65) = true ∧ State.reset.KEYED = false) ∧
    (decode true 0x00000071 = .ok (.init 7) ∧ requiresInstance (.init 7) = false ∧
      operandCause (.init 7) = some .badRounds) ∧
    (running keyed ∧ keyed.KEYED = true ∧ operandCause (.gen 65) = some .badLength) ∧
    operandCause (.gen 64) = none :=
  ⟨rfl, ⟨rfl, nofun⟩, ⟨rfl, rfl, rfl⟩, ⟨rfl, rfl, rfl⟩, ⟨rfl, rfl, rfl⟩, rfl⟩

theorem witness_FaultsArePrecise :
    ∃ t, running State.reset ∧ command 0x00000413 State.reset = .next t ∧ t.FAULTED = true := ⟨_, rfl, rfl, rfl⟩

/-- Each cause of R252 at its lowest reserved bit or opcode, and a word that has none of them. -/
theorem witness_IllegalWordsExactly :
    running State.reset ∧ running noDebug ∧
    (illegal true 0x0000000B .reservedOpcode && illegal true 0x00000018 .reservedBits &&
     illegal true 0x00000201 .reservedBits && illegal true 0x0000080A .reservedBits &&
     illegal true 0x00100005 .reservedBits && illegal false 0x00000005 .debugDisabled &&
     illegal false 0x0000000A .debugDisabled && decodes true 0x0000000A (.wstore 0)) = true := by decide +kernel

theorem witness_NotKeyedWithoutInstance :
    (running State.reset ∧ State.reset.KEYED = false ∧ State.reset.config.DEBUG_CMDS = true) ∧
    (∃ t, running keyed ∧ keyed.KEYED = true ∧ exec (.gen 63) keyed = .next t ∧ t.FAULTED = true) :=
  ⟨⟨rfl, rfl, rfl⟩, _, rfl, rfl, rfl, rfl⟩

theorem witness_BadRoundsOutsideTheClosedSet :
    running State.reset ∧ (∀ r ∈ ([0, 7, 9, 11, 13, 19, 21, 31] : List (BitVec 5)),
      r.toNat ≠ 8 ∧ r.toNat ≠ 12 ∧ r.toNat ≠ 20) ∧
    ((8 : BitVec 5).toNat = 8 ∧ (12 : BitVec 5).toNat = 12 ∧ (20 : BitVec 5).toNat = 20) := by decide

theorem witness_BadLengthUnlessSixtyFour :
    (running keyed ∧ keyed.KEYED = true ∧ keyed.config.DEBUG_CMDS = true) ∧
    (∀ l ∈ ([0, 63, 65, 127] : List (BitVec 7)), l.toNat ≠ 64) ∧ (64 : BitVec 7).toNat = 64 := by decide

theorem witness_PrimitiveCommandsNeedDebug :
    (running noDebug ∧ noDebug.config.DEBUG_CMDS = false) ∧
    (5 ≤ (0xFFFFFFF5 : Word).toNat % 16 ∧ (0xFFFFFFFA : Word).toNat % 16 ≤ 0xA) ∧
    Instr.isDebug (.wstore 64) = true := by decide

/-- A command, a read and a write at a halted engine. -/
theorem witness_HaltedEngineIgnoresCommands :
    haltedGen.FAULTED = true ∧
    (pend haltedGen [.write 0 4 0x00000141]).pending = .write haltedGen.config.ENGINE_BASE 4 0x00000141 :: [] ∧
    (inContract haltedGen.config 0xFF 1 ∧ (pend haltedGen [.read 0xFF 1]).pending = .read 0xFF 1 :: []) ∧
    (inContract haltedGen.config 0x7C 4 ∧ ¬(0x7C = haltedGen.config.ENGINE_BASE ∧ 4 = 4) ∧
      (pend haltedGen [.write 0x7C 4 5]).pending = .write 0x7C 4 5 :: []) := by decide

theorem witness_InitBuildsTheInstance : running State.reset ∧ (20 : BitVec 5) = 20 ∧ (8 : BitVec 5) = 8 := by decide

theorem witness_SetctrLoadsTheCounter : keyedUp keyed := by decide

theorem witness_GenWritesTheKeystreamBlock : keyedUp { keyed with ROUNDS := 8 } := by decide

theorem witness_ApplyXorsTheKeystreamBlock : keyedUp { keyed with DBUF := countingBuffer } := by decide

theorem witness_QrRunsTheTwelveStatements : debugUp countingW := by decide

theorem witness_QrWithEqualIndices :
    debugUp countingW ∧
    (let s := { State.reset with W := (Vector.replicate 16 0).set 0 3 |>.set 1 5 }
     debugUp s ∧ s.W[0] = 3 ∧ s.W[1] = 5) ∧
    (∀ i : Idx, countingW.W[i] = BitVec.ofNat 32 i.val) := by decide +kernel

theorem witness_QrIsABijection : debugUp countingW ∧ distinct 0 4 8 12 ∧ distinct 3 4 9 14 := by
  unfold distinct
  decide

theorem witness_DrIsEightQuarterRounds : debugUp countingW := by decide

theorem witness_QuarterRoundsOfAPassCommute :
    debugUp countingW ∧ columnRounds.reverse.Perm columnRounds ∧ diagonalRounds.reverse.Perm diagonalRounds :=
  ⟨by decide, List.reverse_perm _, List.reverse_perm _⟩

theorem witness_RepeatedDrIteratesTheDoubleRound : debugUp countingW := by decide

theorem witness_LdwCopiesTheStoredState : debugUp keyed ∧ keyed.KEYED = true := by decide

theorem witness_FfwAddsTheStoredState :
    let s := { keyed with W := (Vector.replicate 16 0).set 0 0xffffffff }
    debugUp s ∧ s.KEYED = true := by decide

theorem witness_WloadPacksTheBuffer : debugUp { State.reset with DBUF := countingBuffer } := by decide

theorem witness_WstoreSerializesTheWords : debugUp countingW := by decide

theorem witness_SerializationIsInvertible : debugUp { countingW with DBUF := countingBuffer } := by decide

theorem witness_ApplyTwiceRestoresTheBuffer : keyedUp { keyed with DBUF := countingBuffer } := by decide

theorem witness_ApplyOnZeroBufferIsGen : keyedUp keyed ∧ keyed.DBUF = Vector.replicate 64 0 := by decide

theorem witness_PrimitivesComposeToGen : keyedUp keyed ∧ debugUp keyed := by decide

/-- Two states that differ in everything the statement does not name. -/
theorem witness_GenDependsOnInstanceAndCounterOnly :
    let s := { keyed with S := keyed.S.set 12 5 |>.set 13 6, W := countingW.W, DBUF := countingBuffer }
    keyedUp s ∧ keyedUp keyed ∧ (∀ i : Idx, i ≠ 12 → i ≠ 13 → s.S[i] = keyed.S[i]) ∧
      s.CTRBUF = keyed.CTRBUF ∧ s.ROUNDS = keyed.ROUNDS := by decide +kernel

theorem witness_CounterReachesTwoWordsOnly :
    keyedUp keyed ∧ (#v[0xff, 0xff, 0xff, 0xff, 0, 0, 0, 0] : Vector Byte 8) ≠ keyed.CTRBUF := by decide

/-- Each command of the statement completes from `keyed` without a fault. -/
theorem witness_WorkingStateCommandsChangeOnlyW :
    (∃ t, exec (.qr 1 1 2 3) keyed = .next t ∧ t.FAULTED = keyed.FAULTED) ∧
    (∃ t, exec .dr keyed = .next t ∧ t.FAULTED = keyed.FAULTED) ∧
    (∃ t, exec .ldw keyed = .next t ∧ t.FAULTED = keyed.FAULTED) ∧
    (∃ t, exec .ffw keyed = .next t ∧ t.FAULTED = keyed.FAULTED) ∧
    (∃ t, exec (.wload 64) keyed = .next t ∧ t.FAULTED = keyed.FAULTED) :=
  ⟨⟨_, rfl, rfl⟩, ⟨_, rfl, rfl⟩, ⟨_, rfl, rfl⟩, ⟨_, rfl, rfl⟩, ⟨_, rfl, rfl⟩⟩

/-- Each command of the statement completes from `keyed` without a fault. -/
theorem witness_BufferCommandsChangeOnlyTheBlock :
    (∃ t, exec (.gen 64) keyed = .next t ∧ t.FAULTED = keyed.FAULTED) ∧
    (∃ t, exec (.apply 64) keyed = .next t ∧ t.FAULTED = keyed.FAULTED) ∧
    (∃ t, exec (.wstore 64) keyed = .next t ∧ t.FAULTED = keyed.FAULTED) :=
  ⟨⟨_, rfl, rfl⟩, ⟨_, rfl, rfl⟩, ⟨_, rfl, rfl⟩⟩

/-- Each command of the statement completes from `keyed` without a fault. -/
theorem witness_InstanceCommandsChangeOnlyTheInstance :
    (∃ t, exec .setctr keyed = .next t ∧ t.FAULTED = keyed.FAULTED) ∧
    (∃ t, exec (.init 12) keyed = .next t ∧ t.FAULTED = keyed.FAULTED) := ⟨⟨_, rfl, rfl⟩, ⟨_, rfl, rfl⟩⟩

/-- A step that runs SETCTR. -/
theorem witness_OnlyInitAndResetChangeTheInstance :
    let s := pend keyed [.write 0 4 0x00000002]
    (∃ t, step s = .next t) ∧ (∀ rest, s.pending ≠ .reset :: rest) ∧
      (∀ v rest r, s.pending = .write s.config.ENGINE_BASE 4 v :: rest →
        decode s.config.DEBUG_CMDS v ≠ .ok (.init r)) := by
  refine ⟨⟨_, rfl⟩, nofun, ?_⟩
  intro v rest r h
  cases h
  nofun

/-- A command that leaves DBUF, one that faults, and a step that changes DBUF by a host write. -/
theorem witness_WritersOfTheDataBuffer :
    (∃ t, exec (.wload 64) keyed = .next t) ∧
    (∃ t, running keyed ∧ command 0x000003F3 keyed = .next t ∧ t.FAULTED = true) ∧
    next? (step (pend State.reset [.write 0x7F 1 5])) (fun t => t.DBUF != State.reset.DBUF) = true :=
  ⟨⟨_, rfl⟩, ⟨_, rfl, rfl, rfl⟩, by decide +kernel⟩

theorem witness_NoCommandIncrementsTheCounter :
    (∃ t, exec (.gen 64) keyed = .next t) ∧ ∃ t, exec (.init 8) keyed = .next t := ⟨⟨_, rfl⟩, ⟨_, rfl⟩⟩

/-- A one-byte read at both ends of every row of R51. -/
theorem witness_RegisterMapReads :
    ∀ off ∈ [0x00, 0x03, 0x04, 0x07, 0x08, 0x0B, 0x0C, 0x0F, 0x10, 0x17, 0x18, 0x1F, 0x20, 0x3F, 0x40, 0x7F, 0x80,
      0xFF], off < 256 ∧
        (pend noDebug [.read (0x4000 + off) 1]).pending = .read (noDebug.config.ENGINE_BASE + off) 1 :: [] := by
  decide +kernel

/-- A one-byte write at both ends of every row of R51. -/
theorem witness_RegisterMapWrites :
    ∀ off ∈ [0x00, 0x03, 0x04, 0x07, 0x08, 0x0B, 0x0C, 0x0F, 0x10, 0x17, 0x18, 0x1F, 0x20, 0x3F, 0x40, 0x7F, 0x80,
      0xFF], off < 256 ∧
        (pend noDebug [.write (0x4000 + off) 1 5]).pending =
          .write (noDebug.config.ENGINE_BASE + off) 1 5 :: [] := by decide +kernel

/-- Accesses at both ends of the ranges, which keep the contract and lie in them. -/
theorem witness_ReservedAndReadOnlyOffsets :
    (∀ a ∈ [(0x04, 4), (0x0F, 1), (0x80, 2), (0xFC, 4)], inContract State.reset.config a.1 a.2 ∧
      (0x04 ≤ a.1 ∧ a.1 < 0x10 ∨ 0x80 ≤ a.1) ∧
      (pend State.reset [.write a.1 a.2 5]).pending = .write a.1 a.2 5 :: []) ∧
    (∀ a ∈ [(0x0C, 4), (0x0F, 1), (0x80, 2), (0xFC, 4)], inContract State.reset.config a.1 a.2 ∧
      (0x0C ≤ a.1 ∧ a.1 < 0x10 ∨ 0x80 ≤ a.1) ∧
      (pend State.reset [.read a.1 a.2]).pending = .read a.1 a.2 :: []) := by decide +kernel

/-- The ends of CTRBUF and DBUF, and states for the three commands. -/
theorem witness_PortBuffersReadBack :
    (∀ off ∈ [0x10, 0x17, 0x40, 0x7F], 0x10 ≤ off ∧ off < 0x18 ∨ 0x40 ≤ off ∧ off < 0x80) ∧
    keyedUp keyed ∧ debugUp State.reset := by decide

theorem witness_WideAccessIsByteAccesses :
    (inContract State.reset.config 0x7C 4 ∧ ¬(0x7C = State.reset.config.ENGINE_BASE ∧ 4 = 4) ∧
      (pend State.reset [.write 0x7C 4 5]).pending = .write 0x7C 4 5 :: []) ∧
    (inContract State.reset.config 0 2 ∧ ¬(0 = State.reset.config.ENGINE_BASE ∧ 2 = 4)) ∧
    (inContract State.reset.config 0xFE 2 ∧ (pend State.reset [.read 0xFE 2]).pending = .read 0xFE 2 :: []) := by
  decide

/-- Aligned accesses, misaligned ones and another width, at the ends of the window. -/
theorem witness_AlignedAccessesOnly :
    (∀ a ∈ [(0, 4), (0xFC, 4), (0xFE, 2), (0xFF, 1)], a.1 < 256 ∧ (a.2 = 1 ∨ a.2 = 2 ∨ a.2 = 4) ∧ a.1 % a.2 = 0) ∧
    (∀ a ∈ [(1, 2), (0xFF, 2), (0xFE, 4), (0, 0), (0, 3), (0, 8)],
      a.1 < 256 ∧ ¬((a.2 = 1 ∨ a.2 = 2 ∨ a.2 = 4) ∧ a.1 % a.2 = 0)) ∧
    (pend State.reset [.read 0xFF 2]).pending = .read (State.reset.config.ENGINE_BASE + 0xFF) 2 :: [] := by decide

/-- The addresses next to the window on both sides. -/
theorem witness_AddressesOutsideTheWindow :
    (0x3FFF < noDebug.config.ENGINE_BASE ∧ noDebug.config.ENGINE_BASE + 256 ≤ 0x4100) ∧
    (pend noDebug [.read 0x3FFF 1]).pending = .read 0x3FFF 1 :: [] ∧
    (pend noDebug [.write 0x4100 4 0]).pending = .write 0x4100 4 0 :: [] ∧
    (252 < 256 ∧ 252 % 4 = 0) := by decide

theorem witness_CommandPort :
    (pend State.reset [.write 0 4 0x00000081]).pending = .write State.reset.config.ENGINE_BASE 4 0x00000081 :: [] ∧
    (∀ a ∈ [(0, 1), (3, 1), (0, 2), (2, 2)], a.1 < 4 ∧ (a.2 = 1 ∨ a.2 = 2) ∧ a.1 % a.2 = 0 ∧
      (pend State.reset [.write a.1 a.2 5]).pending = .write (State.reset.config.ENGINE_BASE + a.1) a.2 5 :: []) ∧
    (∀ a ∈ [(0, 1), (3, 1), (2, 2), (0, 4)], a.1 < 4 ∧ (a.2 = 1 ∨ a.2 = 2 ∨ a.2 = 4) ∧ a.1 % a.2 = 0 ∧
      (pend State.reset [.read a.1 a.2]).pending = .read (State.reset.config.ENGINE_BASE + a.1) a.2 :: []) := by
  decide +kernel

theorem witness_StatusIsAViewOfTheRegisters :
    (pend keyed [.read 4 4]).pending = .read (keyed.config.ENGINE_BASE + 0x04) 4 :: [] ∧
    (pend haltedGen [.read 8 4]).pending = .read (haltedGen.config.ENGINE_BASE + 0x08) 4 :: [] ∧
    (∀ a ∈ [(4, 4), (7, 1), (6, 2)], 0x04 ≤ a.1 ∧ a.1 < 0x08 ∧ (a.2 = 1 ∨ a.2 = 2 ∨ a.2 = 4) ∧ a.1 % a.2 = 0) ∧
    (StateInv State.reset ∧ State.reset.FAULTED = false) := by
  refine ⟨rfl, rfl, by decide, ⟨⟨rfl, rfl⟩, rfl, rfl⟩, rfl⟩

theorem witness_SideEffectsOfAccesses :
    (inContract State.reset.config 0x40 4 ∧
      (pend State.reset [.read 0x40 4, .read 0x40 4]).pending = .read 0x40 4 :: .read 0x40 4 :: []) ∧
    (∀ a ∈ [(0x10, 1), (0x1E, 2), (0x3C, 4), (0x7F, 1)], inContract State.reset.config a.1 a.2 ∧
      ¬(a.1 = State.reset.config.ENGINE_BASE ∧ a.2 = 4) ∧
      (pend State.reset [.write a.1 a.2 5]).pending = .write a.1 a.2 5 :: []) := by decide +kernel

theorem witness_HostStepsAreTakenInOrder :
    (∃ t, (pend keyed [.write 0 4 3, .reset]).pending = .write 0 4 3 :: [.reset] ∧
      step (pend keyed [.write 0 4 3, .reset]) = .next t) ∧ State.reset.pending = [] := ⟨⟨_, rfl, rfl⟩, rfl⟩

/-- A reset; and steps that leave a halted engine and an engine instance as they are. -/
theorem witness_ResetAloneLeavesTheHaltedState :
    (pend haltedGen [.reset]).pending = .reset :: [] ∧
    (∃ t, step (pend haltedGen [.write 0x40 4 1]) = .next t ∧ (pend haltedGen [.write 0x40 4 1]).FAULTED = true ∧
      ∀ rest, (pend haltedGen [.write 0x40 4 1]).pending ≠ .reset :: rest) ∧
    (∃ t, step (pend keyed [.write 0 4 0xB]) = .next t ∧ (pend keyed [.write 0 4 0xB]).KEYED = true ∧
      ∀ rest, (pend keyed [.write 0 4 0xB]).pending ≠ .reset :: rest) ∧
    ∃ t, exec .nop haltedGen = .next t :=
  ⟨rfl, ⟨_, rfl, rfl, nofun⟩, ⟨_, rfl, rfl, nofun⟩, _, rfl⟩

/-- A keyed state and a halted one that meet the invariant, with a step from each. -/
theorem witness_EveryStepKeepsInv :
    (StateInv (pend keyed [.write 0 4 3]) ∧ ∃ t, step (pend keyed [.write 0 4 3]) = .next t) ∧
    (StateInv (pend haltedGen [.reset]) ∧ ∃ t, step (pend haltedGen [.reset]) = .next t) :=
  ⟨⟨⟨⟨rfl, rfl, rfl, rfl, .inr (.inr rfl)⟩, rfl, rfl⟩, _, rfl⟩,
    ⟨⟨⟨rfl, rfl⟩, .notKeyed, rfl, rfl⟩, _, rfl⟩⟩

/-- Two engines with different keys, which the host cannot tell apart, and a read of DBUF. -/
theorem witness_SecretsLeaveThroughBlocksOnly :
    let s := pend noDebug [.read 0x4040 4]
    let s' := { s with KEYBUF := Vector.replicate 32 0xAA, W := countingW.W }
    hostView s = hostView s' ∧ s.config.DEBUG_CMDS = false ∧
      (∀ v rest l, s.pending = .write s.config.ENGINE_BASE 4 v :: rest →
        decode false v ≠ .ok (.gen l) ∧ decode false v ≠ .ok (.apply l)) ∧
      (∃ t, step s = .next t) ∧ ∃ t, step s' = .next t :=
  ⟨rfl, rfl, nofun, ⟨_, rfl⟩, _, rfl⟩

/-- States that agree on what the time may depend on and on nothing else; and a command that is neither ignored nor faults. -/
theorem witness_CommandTimeIsDataIndependent :
    (let s := { keyed with W := countingW.W, DBUF := countingBuffer }
     s.config.DEBUG_CMDS = keyed.config.DEBUG_CMDS ∧ s.ROUNDS = keyed.ROUNDS ∧ s.KEYED = keyed.KEYED ∧
       s.FAULTED = keyed.FAULTED) ∧
    (running keyed ∧ wordCause keyed.config.DEBUG_CMDS keyed.KEYED 0x00000403 = none) := ⟨⟨rfl, rfl, rfl, rfl⟩, rfl, rfl⟩

end Sys2Proof.Tests
end

/-! PROOFS. The read-only rows STATUS and FAULT_CMD of the register window (10_state.md R33, 20_memory.md
R51), and the state after reset (R36). -/

namespace Sys2Proof.Machine

/-! ### 32-bit reads of a register through the window -/

theorem readByte_status (s : State) (k : Nat) (hk : k < 4) :
    readByte s (0x04 + k) = byteOf (statusWord s) k := by
  have hport : portAt (0x04 + k) = .status := (portAt_rows _).1.mpr ⟨by omega, by omega⟩
  simp [readByte, hport]

theorem readByte_faultCmd (s : State) (k : Nat) (hk : k < 4) :
    readByte s (0x08 + k) = byteOf s.FAULT_CMD k := by
  have hport : portAt (0x08 + k) = .faultCmd := (portAt_rows _).2.1.mpr ⟨by omega, by omega⟩
  simp [readByte, hport]

/-- A 32-bit read is the four bytes of the row, the lowest offset the least significant (R53). -/
theorem readBytes_four (s : State) (off : Nat) :
    readBytes s off 4 =
      le32 (readByte s off) (readByte s (off + 1)) (readByte s (off + 2)) (readByte s (off + 3)) := by
  have hsum : readSum s off 4 = (readByte s off).toNat + 256 * (readByte s (off + 1)).toNat +
      65536 * (readByte s (off + 2)).toNat + 16777216 * (readByte s (off + 3)).toNat := by
    simp only [readSum, Nat.add_zero]
    omega
  rw [readBytes, hsum, le32]

/-- Four offsets that read the bytes of a word read that word. -/
theorem readBytes_four_eq {s : State} {off : Nat} {w : Word}
    (h : ∀ k < 4, readByte s (off + k) = byteOf w k) : readBytes s off 4 = w := by
  have h0 : readByte s off = byteOf w 0 := h 0 (by omega)
  rw [readBytes_four, h0, h 1 (by omega), h 2 (by omega), h 3 (by omega), le32_bytes]

theorem readBytes_status (s : State) : readBytes s 0x04 4 = statusWord s :=
  readBytes_four_eq (readByte_status s)

theorem readBytes_faultCmd (s : State) : readBytes s 0x08 4 = s.FAULT_CMD :=
  readBytes_four_eq (readByte_faultCmd s)

/-- A 32-bit access at a multiple of 4 in the window reads what the window holds there. -/
theorem step_read_four {s : State} {off : Nat} {rest : List HostStep} (h : off < 256) (ha : off % 4 = 0)
    (hp : s.pending = .read (s.config.ENGINE_BASE + off) 4 :: rest) :
    step s = .next ((s.withPending rest).withRead (readBytes s off 4)) := by
  rw [step_readAccess (by omega) (by omega) (by omega) (by rwa [Nat.add_sub_cancel_left]) hp,
    Nat.add_sub_cancel_left]

/-! ### The fields of STATUS -/

theorem bitWord_getLsbD (b : Bool) (j : Nat) : (bitWord b).getLsbD j = (decide (j = 0) && b) := by
  cases b <;> simp [bitWord]

/-- Bit j of STATUS is the bit of the one field that lies there (R33). -/
theorem statusWord_getLsbD (s : State) (j : Nat) (hj : j < 32) :
    (statusWord s).getLsbD j =
      if j = 0 then s.KEYED else if j = 1 then s.FAULTED else if j < 4 then false
      else if j < 8 then s.FCODE.getLsbD (j - 4) else s.ROUNDS.getLsbD (j - 8) := by
  have hFCODE : 8 ≤ j → s.FCODE.getLsbD (j - 4) = false := fun h => BitVec.getLsbD_of_ge _ _ (by omega)
  have hFAULTED : (bitWord s.FAULTED).getLsbD (j - 1) = (decide (j ≤ 1) && s.FAULTED) := by
    simp [bitWord_getLsbD, Nat.sub_eq_zero_iff_le]
  simp only [statusWord, BitVec.getLsbD_or, BitVec.getLsbD_shiftLeft, BitVec.getLsbD_setWidth, hFAULTED,
    bitWord_getLsbD]
  grind

/-- Reading a field of STATUS at its place gives the register, and the bits between and above the fields are zero (R33). -/
theorem statusWord_fields (s : State) :
    (statusWord s).extractLsb' 0 1 = BitVec.ofBool s.KEYED ∧
    (statusWord s).extractLsb' 1 1 = BitVec.ofBool s.FAULTED ∧
    (statusWord s).extractLsb' 2 2 = 0 ∧
    (statusWord s).extractLsb' 4 4 = s.FCODE ∧
    (statusWord s).extractLsb' 8 5 = s.ROUNDS ∧
    (statusWord s).extractLsb' 13 19 = 0 := by
  refine ⟨?_, ?_, ?_, ?_, ?_, ?_⟩
  all_goals
    ext i hi
    rw [BitVec.getElem_extractLsb', statusWord_getLsbD s _ (by omega)]
    grind

/-- While no fault is recorded the fault registers are zero (R26). -/
theorem faultOk_running {s : State} (h : faultOk s) (hf : s.FAULTED = false) :
    s.FCODE = 0 ∧ s.FAULT_CMD = 0 := by
  simpa [faultOk, hf] using h

/-! ### Writes to STATUS -/

theorem writeByte_status (s : State) (off : Nat) (b : Byte) (h : 0x04 ≤ off) (h' : off < 0x08) :
    writeByte off b s = s := by
  have hport : portAt off = .status := (portAt_rows off).1.mpr ⟨h, h'⟩
  simp [writeByte, hport]

theorem writeBytes_status (s : State) (off n : Nat) (v : Word) (h : 0x04 ≤ off) (h' : off + n ≤ 0x08) :
    writeBytes off v n s = s := by
  induction n with
  | zero => rfl
  | succ n ih => rw [writeBytes, ih (by omega), writeByte_status s _ _ (by omega) (by omega)]

/-- An aligned access that begins in the STATUS row ends in it (R54). -/
theorem aligned_access_within_status {off n : Nat} (hn : n = 1 ∨ n = 2 ∨ n = 4) (ha : off % n = 0)
    (h : 0x04 ≤ off) (h' : off < 0x08) : off + n ≤ 0x08 := by
  obtain rfl | rfl | rfl := hn <;> omega

/-- A write access to STATUS takes the host's step and changes nothing else (R33). -/
theorem step_write_status {s : State} {off n : Nat} {v : Word} {rest : List HostStep} (h : 0x04 ≤ off)
    (h' : off < 0x08) (hn : n = 1 ∨ n = 2 ∨ n = 4) (ha : off % n = 0)
    (hp : s.pending = .write (s.config.ENGINE_BASE + off) n v :: rest) :
    step s = .next (s.withPending rest) := by
  rw [step_writeAccess (by omega) (by omega) hn (by rwa [Nat.add_sub_cancel_left]) (by omega) hp,
    Nat.add_sub_cancel_left, writeBytes_status _ _ _ _ h (aligned_access_within_status hn ha h h')]

/-! ### The obligations -/

/-- Settles O51: a 32-bit read of the STATUS row is `statusWord`, whose fields do not overlap. -/
theorem statusIsAViewOfTheRegisters : Obligations.StatusIsAViewOfTheRegisters := by
  intro s rest
  refine ⟨fun hp => ?_, fun hp => ?_, fun off n v h h' hn ha hp => step_write_status h h' hn ha hp⟩
  · obtain ⟨hKEYED, hFAULTED, hlow, hFCODE, hROUNDS, hhigh⟩ := statusWord_fields s
    have hstep := step_read_four (by omega) (by omega) hp
    rw [readBytes_status] at hstep
    exact ⟨statusWord s, hstep, hKEYED, hFAULTED, hlow, hFCODE, hROUNDS, hhigh,
      fun ⟨_, hfault⟩ hf => hFCODE.trans (faultOk_running hfault hf).1⟩
  · have hstep := step_read_four (by omega) (by omega) hp
    rwa [readBytes_faultCmd] at hstep

/-- Settles O55: the fields are those of `State.reset`, and STATUS is the view of its zero registers. -/
theorem resetLeavesZeros : Obligations.ResetLeavesZeros := by
  refine ⟨State.reset_S, State.reset_W, State.reset_ROUNDS, State.reset_KEYED, State.reset_FAULTED,
    State.reset_FCODE, State.reset_FAULT_CMD, State.reset_KEYBUF, State.reset_NONCEBUF, State.reset_CTRBUF,
    State.reset_DBUF, ?_⟩
  rw [readBytes_status]
  simp [statusWord, bitWord]

end Sys2Proof.Machine

/-! PROOFS. Accesses to the register window by row (20_memory.md R55 to R61): the offsets that read zero, the
offsets that ignore writes, what a write leaves of the port buffers, and the writers of DBUF (R68). -/

namespace Sys2Proof.Machine

/-! ### Accesses that keep the contract -/

/-- An offset in the window, with a supported width and alignment, is an address that keeps the contract (R54). -/
theorem inContract_offset (c : Config) {off n : Nat} (h : off < 256) (hn : n = 1 ∨ n = 2 ∨ n = 4)
    (ha : off % n = 0) : inContract c (c.ENGINE_BASE + off) n :=
  ⟨by omega, by omega, hn, by rwa [Nat.add_sub_cancel_left]⟩

/-- An aligned access that begins below a word boundary ends at or below it (R54). -/
theorem aligned_access_below {off n bound : Nat} (hn : n = 1 ∨ n = 2 ∨ n = 4) (ha : off % n = 0)
    (hbound : bound % 4 = 0) (h : off < bound) : off + n ≤ bound := by
  obtain rfl | rfl | rfl := hn <;> omega

/-! ### Reads -/

/-- CMD, the reserved offsets and the write-only ports read zero (R55, R56, R59). -/
theorem readByte_eq_zero (s : State) {off : Nat}
    (h : off < 0x04 ∨ 0x0C ≤ off ∧ off < 0x10 ∨ 0x18 ≤ off ∧ off < 0x40 ∨ 0x80 ≤ off) :
    readByte s off = 0 := by
  obtain ⟨hstatus, hfaultCmd, hctrbuf, -, -, hdbuf⟩ := portAt_rows off
  unfold readByte
  split
  case h_2 hport => have := hstatus.mp hport; omega
  case h_3 hport => have := hfaultCmd.mp hport; omega
  case h_5 hport => have := hctrbuf.mp hport; omega
  case h_8 hport => have := hdbuf.mp hport; omega
  all_goals rfl

theorem readBytes_eq_zero {s : State} {off n : Nat} (h : ∀ k < n, readByte s (off + k) = 0) :
    readBytes s off n = 0 := by
  have hsum : readSum s off n = 0 := by
    induction n with
    | zero => rfl
    | succ n ih => simp [readSum, ih fun k hk => h k (by omega), h n (by omega)]
  rw [readBytes, hsum]
  rfl

/-- What a read returns does not depend on what earlier reads have returned (R61). -/
theorem readBytes_withRead (s : State) (v : Word) (off n : Nat) :
    readBytes (s.withRead v) off n = readBytes s off n := by
  have hsum : readSum (s.withRead v) off n = readSum s off n := by
    induction n with
    | zero => rfl
    | succ n ih => simp only [readSum, ih]; rfl
  rw [readBytes, hsum, readBytes]

/-- A read of CMD or of a reserved offset returns 0 and takes the host's step (R55, R59). -/
theorem step_read_zero {s : State} {addr n : Nat} {rest : List HostStep} (hin : inContract s.config addr n)
    (hrow : addr < s.config.ENGINE_BASE + 0x04 ∨
      s.config.ENGINE_BASE + 0x0C ≤ addr ∧ addr < s.config.ENGINE_BASE + 0x10 ∨
      s.config.ENGINE_BASE + 0x80 ≤ addr)
    (hp : s.pending = .read addr n :: rest) : step s = .next ((s.withPending rest).withRead 0) := by
  obtain ⟨hlo, hhi, hn, ha⟩ := hin
  have hbelow {bound : Nat} := aligned_access_below (bound := bound) hn ha
  have hzero : readBytes s (addr - s.config.ENGINE_BASE) n = 0 := by
    refine readBytes_eq_zero fun k hk => readByte_eq_zero s ?_
    obtain hcmd | ⟨hres, hres'⟩ | hres := hrow
    · have := hbelow (bound := 0x04) rfl (by omega); omega
    · have := hbelow (bound := 0x10) rfl (by omega); omega
    · omega
  rw [step_readAccess hlo hhi hn ha hp, hzero]

/-! ### Writes -/

/-- Only the offsets of the port buffers take a byte written by the host (R55, R58, R59). -/
theorem writeByte_outside_buffers (s : State) {off : Nat} (b : Byte) (h : off < 0x10 ∨ 0x80 ≤ off) :
    writeByte off b s = s := by
  obtain ⟨-, -, hctrbuf, hnoncebuf, hkeybuf, hdbuf⟩ := portAt_rows off
  unfold writeByte
  split
  case h_5 hport => have := hctrbuf.mp hport; omega
  case h_6 hport => have := hnoncebuf.mp hport; omega
  case h_7 hport => have := hkeybuf.mp hport; omega
  case h_8 hport => have := hdbuf.mp hport; omega
  all_goals rfl

theorem writeBytes_outside_buffers (s : State) {off n : Nat} (v : Word) (h : off + n ≤ 0x10 ∨ 0x80 ≤ off) :
    writeBytes off v n s = s := by
  induction n with
  | zero => rfl
  | succ n ih => rw [writeBytes, ih (by omega), writeByte_outside_buffers s _ (by omega)]

/-- A write outside the port buffers that is not a command takes the host's step and changes nothing else. -/
theorem step_write_outside_buffers {s : State} {addr n : Nat} {v : Word} {rest : List HostStep}
    (hin : inContract s.config addr n) (hc : ¬(addr = s.config.ENGINE_BASE ∧ n = 4))
    (hrow : addr < s.config.ENGINE_BASE + 0x10 ∨ s.config.ENGINE_BASE + 0x80 ≤ addr)
    (hp : s.pending = .write addr n v :: rest) : step s = .next (s.withPending rest) := by
  obtain ⟨hlo, hhi, hn, ha⟩ := hin
  rw [step_writeAccess hlo hhi hn ha hc hp, writeBytes_outside_buffers]
  exact hrow.imp (fun h => aligned_access_below hn ha rfl (by omega)) (by omega)

/-- Every byte of the port buffers whose offset lies outside [lo, hi) is in t what it is in s. -/
structure BuffersKept (lo hi : Nat) (s t : State) : Prop where
  CTRBUF : ∀ k : Fin 8, ¬(lo ≤ 0x10 + k.val ∧ 0x10 + k.val < hi) → t.CTRBUF[k] = s.CTRBUF[k]
  NONCEBUF : ∀ k : Fin 8, ¬(lo ≤ 0x18 + k.val ∧ 0x18 + k.val < hi) → t.NONCEBUF[k] = s.NONCEBUF[k]
  KEYBUF : ∀ k : Fin 32, ¬(lo ≤ 0x20 + k.val ∧ 0x20 + k.val < hi) → t.KEYBUF[k] = s.KEYBUF[k]
  DBUF : ∀ k : Fin 64, ¬(lo ≤ 0x40 + k.val ∧ 0x40 + k.val < hi) → t.DBUF[k] = s.DBUF[k]

theorem BuffersKept.refl (lo hi : Nat) (s : State) : BuffersKept lo hi s s :=
  ⟨fun _ _ => rfl, fun _ _ => rfl, fun _ _ => rfl, fun _ _ => rfl⟩

/-- What two changes in a row keep, each of them in a range inside [lo, hi). -/
theorem BuffersKept.trans {lo hi lo₁ hi₁ lo₂ hi₂ : Nat} {s t u : State} (h₁ : BuffersKept lo₁ hi₁ s t)
    (h₂ : BuffersKept lo₂ hi₂ t u) (hlo : lo ≤ lo₁ ∧ lo ≤ lo₂) (hhi : hi₁ ≤ hi ∧ hi₂ ≤ hi) :
    BuffersKept lo hi s u where
  CTRBUF k hk := (h₂.CTRBUF k (by omega)).trans (h₁.CTRBUF k (by omega))
  NONCEBUF k hk := (h₂.NONCEBUF k (by omega)).trans (h₁.NONCEBUF k (by omega))
  KEYBUF k hk := (h₂.KEYBUF k (by omega)).trans (h₁.KEYBUF k (by omega))
  DBUF k hk := (h₂.DBUF k (by omega)).trans (h₁.DBUF k (by omega))

/-- A byte stored for an offset of the buffer at `base` leaves the bytes of the other offsets. -/
theorem setIfInBounds_offset_ne {n : Nat} (B : Vector Byte n) (b : Byte) {base off : Nat} (hbase : base ≤ off)
    (k : Fin n) (hk : ¬(off ≤ base + k.val ∧ base + k.val < off + 1)) :
    (B.setIfInBounds (off - base) b)[k] = B[k] :=
  Vector.getElem_setIfInBounds_ne k.isLt (by omega)

theorem writeByte_buffersKept (off : Nat) (b : Byte) (s : State) :
    BuffersKept off (off + 1) s (writeByte off b s) := by
  obtain ⟨-, -, hctrbuf, hnoncebuf, hkeybuf, hdbuf⟩ := portAt_rows off
  have hkept := BuffersKept.refl off (off + 1) s
  unfold writeByte
  split
  case h_5 hport => exact { hkept with CTRBUF := setIfInBounds_offset_ne _ _ (hctrbuf.mp hport).1 }
  case h_6 hport => exact { hkept with NONCEBUF := setIfInBounds_offset_ne _ _ (hnoncebuf.mp hport).1 }
  case h_7 hport => exact { hkept with KEYBUF := setIfInBounds_offset_ne _ _ (hkeybuf.mp hport).1 }
  case h_8 hport => exact { hkept with DBUF := setIfInBounds_offset_ne _ _ (hdbuf.mp hport).1 }
  all_goals exact hkept

/-- A write leaves every byte of the port buffers that it does not address (R53, R61). -/
theorem writeBytes_buffersKept (off n : Nat) (v : Word) (s : State) :
    BuffersKept off (off + n) s (writeBytes off v n s) := by
  induction n with
  | zero => exact .refl _ _ s
  | succ n ih => exact ih.trans (writeByte_buffersKept (off + n) (byteOf v n) _) (by omega) (by omega)

/-- A write changes no field but the port buffers. -/
theorem writeBytes_eq (off n : Nat) (v : Word) (s : State) :
    writeBytes off v n s = { s with
      KEYBUF := (writeBytes off v n s).KEYBUF, NONCEBUF := (writeBytes off v n s).NONCEBUF,
      CTRBUF := (writeBytes off v n s).CTRBUF, DBUF := (writeBytes off v n s).DBUF } := by
  obtain ⟨hS, hW, hROUNDS, hKEYED, hFAULTED, hFCODE, hFAULT_CMD, hconfig, hpending, hreads⟩ :=
    writeBytes_engine off v n s
  rw [← hS, ← hW, ← hROUNDS, ← hKEYED, ← hFAULTED, ← hFCODE, ← hFAULT_CMD, ← hconfig, ← hpending, ← hreads]

/-- An aligned write that begins outside DBUF leaves DBUF (R54, R68). -/
theorem writeBytes_DBUF_outside {off n : Nat} {v : Word} {s : State} (hn : n = 1 ∨ n = 2 ∨ n = 4)
    (ha : off % n = 0) (h : off < 0x40 ∨ 0x80 ≤ off) : (writeBytes off v n s).DBUF = s.DBUF := by
  have hrange : off + n ≤ 0x40 ∨ 0x80 ≤ off := h.imp_left (aligned_access_below hn ha rfl)
  ext k hk : 1
  exact (writeBytes_buffersKept off n v s).DBUF ⟨k, hk⟩ (by dsimp only; omega)

/-! ### Commands that write DBUF -/

theorem requireLength_eq_none {l : BitVec 7} : requireLength l = none ↔ l = 64 := by
  simp [requireLength]

/-- A command that writes DBUF passes its checks with LEN 64 only (R255). -/
theorem length_of_no_cause {i : Instr} {l : BitVec 7} {s : State} (hi : i = .gen l ∨ i = .apply l ∨ i = .wstore l)
    (hcause : commandCause i s = none) : l = 64 := by
  obtain rfl | rfl | rfl := hi <;>
    exact requireLength_eq_none.mp ((Option.orElse_eq_none _ _).mp hcause).2

/-- A command that changes DBUF has completed, and it is GEN, APPLY or WSTORE with LEN 64 (R68). -/
theorem exec_DBUF_ne {i : Instr} {s t : State} (h : exec i s = .next t) (hne : t.DBUF ≠ s.DBUF) :
    t.FAULTED = false ∧ (i = .gen 64 ∨ i = .apply 64 ∨ i = .wstore 64) := by
  obtain ⟨-, rfl⟩ | ⟨-, k, -, rfl⟩ | ⟨hf, hcause, rfl⟩ := exec_cases h
  · exact absurd rfl hne
  · exact absurd rfl hne
  · refine ⟨(commandEffect_FAULTED i s).trans hf, ?_⟩
    cases i
    case gen l => simpa using length_of_no_cause (.inl rfl) hcause
    case apply l => simpa using length_of_no_cause (.inr (.inl rfl)) hcause
    case wstore l => simpa using length_of_no_cause (.inr (.inr rfl)) hcause
    all_goals simp [commandEffect] at hne

/-- A command word that changes DBUF decodes, and what it decodes to runs. -/
theorem command_DBUF_ne {v : Word} {s t : State} (h : command v s = .next t) (hne : t.DBUF ≠ s.DBUF) :
    ∃ i, decode s.config.DEBUG_CMDS v = .ok i ∧ exec i s = .next t := by
  cases hd : decode s.config.DEBUG_CMDS v with
  | ok i => exact ⟨i, rfl, command_of_decode hd ▸ h⟩
  | error e =>
    simp only [command, hd] at h
    split at h <;> cases h <;> exact absurd rfl hne

/-! ### The obligations -/

/-- Settles O41: the commands' part is `exec_DBUF_ne`; of the host's steps, a write that begins outside DBUF does not
reach it. -/
theorem writersOfTheDataBuffer : Obligations.WritersOfTheDataBuffer := by
  refine ⟨fun i s t hi h => ?_, fun v s t _ h hf => ?_, fun s t h hne => ?_⟩
  · by_contra hne
    obtain ⟨-, rfl | rfl | rfl⟩ := exec_DBUF_ne h hne <;> simp at hi
  · by_contra hne
    obtain ⟨i, -, hexec⟩ := command_DBUF_ne h hne
    simp [(exec_DBUF_ne hexec hne).1] at hf
  · obtain ⟨-, rfl⟩ | ⟨rest, hp, -⟩ | ⟨rest, addr, n, -, rfl⟩ | ⟨rest, v, hp, hcmd⟩ |
      ⟨rest, addr, n, v, hp, hlo, -, hn, ha, -, rfl⟩ := step_cases h
    · exact absurd rfl hne
    · exact ⟨_, rest, hp, .inl rfl⟩
    · exact absurd rfl hne
    · obtain ⟨i, hd, hexec⟩ := command_DBUF_ne hcmd hne
      exact ⟨_, rest, hp, .inr (.inr ⟨v, i, rfl, hd, (exec_DBUF_ne hexec hne).2⟩)⟩
    · have hin : s.config.ENGINE_BASE + 0x40 ≤ addr ∧ addr < s.config.ENGINE_BASE + 0x80 := by
        by_contra hout
        exact hne (writeBytes_DBUF_outside hn ha (by omega))
      exact ⟨_, rest, hp, .inr (.inl ⟨addr, n, v, rfl, hin⟩)⟩

/-- Settles O45: the rows named lie outside the port buffers, and the reserved ones read zero. -/
theorem reservedAndReadOnlyOffsets : Obligations.ReservedAndReadOnlyOffsets :=
  ⟨fun _ _ _ _ _ hin hrow hp => step_write_outside_buffers hin (by omega) (by omega) hp,
    fun _ _ _ _ hin hrow hp => step_read_zero hin (.inr hrow) hp⟩

/-- Settles O50: only the 32-bit write runs a command; CMD otherwise reads zero and ignores writes. -/
theorem commandPort : Obligations.CommandPort := by
  intro s rest
  refine ⟨fun v hp => step_command hp, fun off n v hoff hn ha hp => ?_, fun off n hoff hn ha hp => ?_⟩
  · have hin := inContract_offset s.config (by omega) (by omega) ha
    exact step_write_outside_buffers hin (by omega) (by omega) hp
  · have hin := inContract_offset s.config (by omega) hn ha
    exact step_read_zero hin (by omega) hp

/-- Settles O52: the second read reads a state that differs from the first one's on the host's side only; a write is
`writeBytes` at the access's offset. -/
theorem sideEffectsOfAccesses : Obligations.SideEffectsOfAccesses := by
  refine ⟨fun s addr n rest hin hp => ?_, fun s addr n v rest hin hc hp => ?_⟩
  · obtain ⟨hlo, hhi, hn, ha⟩ := hin
    have hfirst := step_readAccess hlo hhi hn ha hp
    have hsecond := step_readAccess (s := (s.withPending (.read addr n :: rest)).withRead
      (readBytes s (addr - s.config.ENGINE_BASE) n)) hlo hhi hn ha rfl
    simp only [State.withRead_config, State.withPending_config, readBytes_withRead, readBytes_withPending] at hsecond
    refine ⟨_, hfirst, ?_⟩
    simp only [runSteps, hfirst, hsecond]
    rfl
  · obtain ⟨hlo, hhi, hn, ha⟩ := hin
    obtain ⟨hCTRBUF, hNONCEBUF, hKEYBUF, hDBUF⟩ :=
      writeBytes_buffersKept (addr - s.config.ENGINE_BASE) n v (s.withPending rest)
    exact ⟨_, step_writeAccess hlo hhi hn ha hc hp, writeBytes_eq _ n v (s.withPending rest),
      fun k hk => hCTRBUF k (by omega), fun k hk => hNONCEBUF k (by omega), fun k hk => hKEYBUF k (by omega),
      fun k hk => hDBUF k (by omega)⟩

end Sys2Proof.Machine

/-! PROOFS. The decoder's tests as R92 writes them: on bit ranges of the word, with `none` for ILLEGAL (30_encoding.md
R92). -/

namespace Sys2Proof

/-- A test on OP as bits is the test on `opField` (R81). -/
theorem op_bits_eq_iff (v : Word) {op : Nat} (h : op < 16) :
    v.extractLsb' 0 4 = BitVec.ofNat 4 op ↔ opField v = op := by
  rw [← BitVec.toNat_inj, BitVec.toNat_ofNat, Nat.mod_eq_of_lt h, opField]

/-- The bits from `lo` up are 0 exactly when the word shifted past its fields is 0 (R82 to R85). -/
theorem top_bits_eq_zero_iff (v : Word) {lo n : Nat} (h : lo + n = 32) :
    v.extractLsb' lo n = 0 ↔ v >>> lo = 0 := by
  have hlt : v.toNat / 2 ^ lo < 2 ^ n := Nat.div_lt_of_lt_mul (by rw [← pow_add, h]; exact v.isLt)
  rw [shiftRight_eq_zero, ← BitVec.toNat_inj, BitVec.extractLsb'_toNat, Nat.shiftRight_eq_div_pow,
    Nat.mod_eq_of_lt hlt]
  simp [Nat.div_eq_zero_iff]

/-- A row of the decoder answers its command if the bits above the format's fields are 0 (R82 to R85). -/
theorem zeroFrom_toOption {lo n : Nat} (h : lo + n = 32) (v : Word) (i : Instr) :
    (zeroFrom lo v i).toOption = if v.extractLsb' lo n = 0 then some i else none := by
  simp only [zeroFrom, top_bits_eq_zero_iff v h]
  split <;> rfl

/-- A primitive command's row answers nothing while DEBUG_CMDS is false (R90). -/
theorem debugOnly_toOption (d : Bool) (r : Except Illegal Instr) :
    (debugOnly d r).toOption = if d = true then r.toOption else none := by
  cases d <;> rfl

/-- Settles O4: the word's OP selects one row of the decoder and at most one test of the chain, which has the row's OP;
the row's other tests are that test's, on the reserved bits and on DEBUG_CMDS. -/
theorem decodeIsTheChainOfTests : Obligations.DecodeIsTheChainOfTests := by
  intro d v
  have hN := zeroFrom_toOption (show 4 + 28 = 32 from rfl) v
  have hR := zeroFrom_toOption (show 9 + 23 = 32 from rfl) v
  have hL := zeroFrom_toOption (show 11 + 21 = 32 from rfl) v
  have hQ := zeroFrom_toOption (show 20 + 12 = 32 from rfl) v
  unfold decode
  split
  case h_12 =>
    -- OP is none of the map's opcodes: every test fails.
    simp_all [op_bits_eq_iff, Except.toOption]
  all_goals
    rename_i hop
    simp [hop, op_bits_eq_iff, debugOnly_toOption, hN, hR, hL, hQ, ite_and, roundsField, lenField, idxField]

end Sys2Proof

/-! PROOFS. The engine instance INIT builds: the words of InitState(K, N) (40_initializer.md R111 to R115). -/

namespace Sys2Proof.Machine

/-! ### The check on ROUNDS -/

theorem requireRounds_eq_none {r : BitVec 5} : requireRounds r = none ↔ r = 8 ∨ r = 12 ∨ r = 20 := by
  simp [requireRounds, or_iff_not_imp_left]

/-! ### The words of the initial state -/

/-- Words 4 to 11 of the initial state are the key words in order (R113). -/
theorem initState_keyWords (K : Vector Byte 32) (N : Vector Byte 8) (i : Fin 8) :
    (initState K N)[4 + i.val]'(by omega) = keyWord K i.val := by
  fin_cases i <;> rfl

/-- Words 14 and 15 of the initial state are the nonce words in order (R113). -/
theorem initState_nonceWords (K : Vector Byte 32) (N : Vector Byte 8) (i : Fin 2) :
    (initState K N)[14 + i.val]'(by omega) = nonceWord N i.val := by
  fin_cases i <;> rfl

/-- A key word is the number of its four bytes of KEYBUF (R111). -/
theorem keyWord_toNat (K : Vector Byte 32) (i : Fin 8) :
    (keyWord K i.val).toNat = Claims.fourBytes K (4 * i.val) (by omega) :=
  le32at_toNat K (4 * i.val) (by omega)

/-- A nonce word is the number of its four bytes of NONCEBUF (R112). -/
theorem nonceWord_toNat (N : Vector Byte 8) (i : Fin 2) :
    (nonceWord N i.val).toNat = Claims.fourBytes N (4 * i.val) (by omega) :=
  le32at_toNat N (4 * i.val) (by omega)

/-! ### The obligation -/

/-- A running engine completes INIT with 8, 12 or 20, whatever instance it held: the effect reads the ports alone
(R114, R115). -/
theorem exec_init {r : BitVec 5} {s : State} (hs : s.FAULTED = false) (hr : r = 8 ∨ r = 12 ∨ r = 20) :
    exec (.init r) s =
      .next { s with S := initState s.KEYBUF s.NONCEBUF, ROUNDS := r, KEYED := true } :=
  exec_effect hs (requireRounds_eq_none.mpr hr)

/-- Settles O17: the new S is `initState` of the ports; the constants and the zero counter words are its literals. -/
theorem initBuildsTheInstance : Obligations.InitBuildsTheInstance := by
  intro s r hs hr
  refine ⟨initState s.KEYBUF s.NONCEBUF, exec_init hs hr, rfl, rfl, rfl, rfl, fun i => ?_, rfl, rfl, fun i => ?_⟩
  · rw [initState_keyWords, keyWord_toNat]
  · rw [initState_nonceWords, nonceWord_toNat]

end Sys2Proof.Machine

/-! PROOFS. The quarter round: its twelve statements in order (41_quarter_round.md R130), and, for four different
indices, the one working state it reaches each working state from (R134). -/

namespace Sys2Proof.Machine

open Sys2Proof.Claims

/-- A running engine that decodes QR completes it and writes W alone (R132). -/
theorem exec_qr {s : State} (a b c d : Idx) (hs : debugUp s) :
    exec (.qr a b c d) s = .next { s with W := quarterRound a b c d s.W } :=
  exec_effect hs.1 (if_pos hs.2)

/-! ### The statements as assignments -/

/-- A half line pair runs its three statements in order, each on the block the one before it left (R130). -/
theorem addXorRotl_assigned (a b d : Idx) {n : Nat} (hn : n < 32) (X : Block) :
    ∃ X₁ X₂ : Block, assigned X a (X[a] + X[b]) X₁ ∧ assigned X₁ d (X₁[d] ^^^ X₁[a]) X₂ ∧
      assigned X₂ d (X₂[d].rotateLeft n) (addXorRotl a b d n X) := by
  refine ⟨addInto a b X, xorInto d a (addInto a b X), fun i => addInto_get a b i X,
    fun i => xorInto_get d a i _, fun i => ?_⟩
  rw [addXorRotl, rotlInto_get, rotl_eq_rotateLeft _ _ hn]

/-- Settles O21: the quarter round is four half line pairs of three assignments each. -/
theorem qrRunsTheTwelveStatements : Obligations.QrRunsTheTwelveStatements := by
  intro s a b c d hs
  let X3 := addXorRotl a b d 16 s.W
  let X6 := addXorRotl c d b 12 X3
  let X9 := addXorRotl a b d 8 X6
  obtain ⟨X1, X2, h1, h2, h3⟩ := addXorRotl_assigned a b d (n := 16) (by decide) s.W
  obtain ⟨X4, X5, h4, h5, h6⟩ := addXorRotl_assigned c d b (n := 12) (by decide) X3
  obtain ⟨X7, X8, h7, h8, h9⟩ := addXorRotl_assigned a b d (n := 8) (by decide) X6
  obtain ⟨X10, X11, h10, h11, h12⟩ := addXorRotl_assigned c d b (n := 7) (by decide) X9
  exact ⟨X1, X2, X3, X4, X5, X6, X7, X8, X9, X10, X11, quarterRound a b c d s.W, exec_qr a b c d hs,
    h1, h2, h3, h4, h5, h6, h7, h8, h9, h10, h11, h12, fun i => quarterRound_other a b c d i s.W⟩

/-! ### The statements as bijections on blocks -/

/-- A write of word a is undone by a second one that computes the old word a from the block the first one left. -/
theorem set_leftInverse {a : Idx} {f g : Block → Word} (h : ∀ X : Block, g (X.set a (f X)) = X[a]) :
    Function.LeftInverse (fun X : Block => X.set a (g X)) (fun X : Block => X.set a (f X)) := by
  intro X
  simp only [h, Vector.set_set]
  exact Vector.set_getElem_self a.isLt

/-- A write of word a leaves a word at another index as it was. -/
theorem set_get_ne {a b : Idx} (h : a ≠ b) (X : Block) (v : Word) : (X.set a v)[b] = X[b] :=
  Vector.getElem_set_ne a.isLt b.isLt (Fin.val_ne_of_ne h)

/-- The sum is undone by subtracting, from the same word, the other word as it stands. -/
theorem addInto_bijective {a b : Idx} (h : a ≠ b) : Function.Bijective (addInto a b) := by
  refine Function.bijective_iff_has_inverse.mpr ⟨fun X => X.set a (X[a] - X[b]),
    set_leftInverse fun X => ?_, set_leftInverse fun X => ?_⟩
  · simp [set_get_ne h]
  · simp [set_get_ne h]

/-- The exclusive or undoes itself. -/
theorem xorInto_bijective {a b : Idx} (h : a ≠ b) : Function.Bijective (xorInto a b) := by
  have cancels : Function.LeftInverse (xorInto a b) (xorInto a b) :=
    set_leftInverse fun X => by simp [set_get_ne h]
  exact Function.bijective_iff_has_inverse.mpr ⟨xorInto a b, cancels, cancels⟩

/-- Rotations by numbers that add up to the word's width undo each other. -/
theorem rotl_rotl (x : Word) {m n : Nat} (hm : 0 < m) (hn : 0 < n) (h : m + n = 32) :
    rotl (rotl x m) n = x := by
  have hm' : m < 32 := by omega
  have hn' : n < 32 := by omega
  rw [rotl_eq_rotateLeft _ _ hn', rotl_eq_rotateLeft _ _ hm']
  ext i hi
  simp only [BitVec.getElem_rotateLeft, Nat.mod_eq_of_lt hm', Nat.mod_eq_of_lt hn']
  split <;> split <;> congr 1 <;> omega

/-- The rotation of a word by n is undone by the one by 32 - n. -/
theorem rotlInto_bijective (a : Idx) {n : Nat} (h0 : 0 < n) (h : n < 32) : Function.Bijective (rotlInto a n) := by
  refine Function.bijective_iff_has_inverse.mpr ⟨rotlInto a (32 - n),
    set_leftInverse fun X => ?_, set_leftInverse fun X => ?_⟩
  · simpa using rotl_rotl X[a] h0 (Nat.sub_pos_of_lt h) (Nat.add_sub_cancel' h.le)
  · simpa using rotl_rotl X[a] (Nat.sub_pos_of_lt h) h0 (Nat.sub_add_cancel h.le)

/-- A half line pair is a bijection when its sum and its exclusive or each read a word other than the one they write. -/
theorem addXorRotl_bijective {a b d : Idx} {n : Nat} (hab : a ≠ b) (hda : d ≠ a) (h0 : 0 < n) (h : n < 32) :
    Function.Bijective (addXorRotl a b d n) :=
  (rotlInto_bijective d h0 h).comp ((xorInto_bijective hda).comp (addInto_bijective hab))

/-- The quarter round is four half line pairs; of its indices only those one statement names together have to differ. -/
theorem quarterRound_bijective {a b c d : Idx} (hab : a ≠ b) (hbc : b ≠ c) (hcd : c ≠ d) (hda : d ≠ a) :
    Function.Bijective (quarterRound a b c d) := by
  have first : ∀ n, 0 < n → n < 32 → Function.Bijective (addXorRotl a b d n) := fun _ =>
    addXorRotl_bijective hab hda
  have second : ∀ n, 0 < n → n < 32 → Function.Bijective (addXorRotl c d b n) := fun _ =>
    addXorRotl_bijective hcd hbc
  exact (second 7 (by decide) (by decide)).comp ((first 8 (by decide) (by decide)).comp
    ((second 12 (by decide) (by decide)).comp (first 16 (by decide) (by decide))))

/-- Settles O23: QR reaches the state whose W is Y exactly from the blocks the quarter round takes to Y. -/
theorem qrIsABijection : Obligations.QrIsABijection := by
  intro s a b c d hs hdistinct Y
  obtain ⟨hab, -, had, hbc, -, hcd⟩ := hdistinct
  have reaches : ∀ X : Block,
      exec (.qr a b c d) { s with W := X } = .next { s with W := Y } ↔ quarterRound a b c d X = Y := by
    intro X
    rw [exec_qr (s := { s with W := X }) a b c d hs]
    simp
  simpa only [reaches] using (quarterRound_bijective hab hbc hcd had.symm).existsUnique Y

end Sys2Proof.Machine

/-! PROOFS. The double round as a sequence of commands: the column pass and then the diagonal pass, each four QR commands
(42_double_round.md R150 to R152, R154). -/

namespace Sys2Proof.Machine

open Sys2Proof.Claims

/-! ### Command sequences -/

/-- A sequence goes on from the state its first command leads to. -/
theorem execSeq_cons {i : Instr} {s t : State} (h : exec i s = .next t) (is : List Instr) :
    execSeq (i :: is) s = execSeq is t := by
  rw [execSeq, h]

/-- A sequence put after one that completes starts from the state that one leads to. -/
theorem execSeq_append {is : List Instr} {s t : State} (h : execSeq is s = .next t) (js : List Instr) :
    execSeq (is ++ js) s = execSeq js t := by
  induction is generalizing s with
  | nil =>
    cases h
    rfl
  | cons i is ih =>
    cases hi : exec i s with
    | next u =>
      rw [execSeq_cons hi] at h
      rw [List.cons_append, execSeq_cons hi, ih h]
    | fault _ | refused _ => simp [execSeq, hi] at h

/-- A QR command at the head of a sequence does its quarter round on W and leaves the rest to the sequence (R132). -/
theorem execSeq_qr_cons {s : State} (hs : debugUp s) (a b c d : Idx) (is : List Instr) (X : Block) :
    execSeq (.qr a b c d :: is) { s with W := X } = execSeq is { s with W := quarterRound a b c d X } :=
  execSeq_cons (exec_qr (s := { s with W := X }) a b c d hs) is

/-! ### The passes and the double round -/

/-- The column pass as commands: W alone is written (R150). -/
theorem execSeq_columnRounds {s : State} (hs : debugUp s) (X : Block) :
    execSeq columnRounds { s with W := X } = .next { s with W := columnPass X } := by
  simp only [columnRounds, execSeq_qr_cons hs]
  rfl

/-- The diagonal pass as commands: W alone is written (R151). -/
theorem execSeq_diagonalRounds {s : State} (hs : debugUp s) (X : Block) :
    execSeq diagonalRounds { s with W := X } = .next { s with W := diagonalPass X } := by
  simp only [diagonalRounds, execSeq_qr_cons hs]
  rfl

/-- A running engine that decodes DR completes it and writes W alone (R154). -/
theorem exec_dr {s : State} (hs : debugUp s) : exec .dr s = .next { s with W := doubleRound s.W } :=
  exec_effect hs.1 (if_pos hs.2)

/-- Settles O24: the diagonal commands start from the block the column pass leaves, and lead to DR's double round. -/
theorem drIsEightQuarterRounds : Obligations.DrIsEightQuarterRounds := by
  intro s hs
  have columns : execSeq columnRounds s = .next { s with W := columnPass s.W } := execSeq_columnRounds hs s.W
  refine ⟨doubleRound s.W, exec_dr hs, ?_⟩
  calc execSeq (columnRounds ++ diagonalRounds) s
      = execSeq diagonalRounds { s with W := columnPass s.W } := execSeq_append columns _
    _ = .next { s with W := doubleRound s.W } := execSeq_diagonalRounds hs (columnPass s.W)

end Sys2Proof.Machine

/-! PROOFS. The keystream block GEN leaves: counter setup, the double rounds, the feed-forward and the serialization
(43_block_generator.md R170 to R173). -/

namespace Sys2Proof.Machine

open Sys2Proof.Claims

/-! ### Counter setup -/

/-- The number of CTRBUF is the number of its eight bytes (R29). -/
theorem counterOf_toNat (s : State) : (counterOf s).toNat = counterNumber s := by
  rw [counterOf, le64_toNat, le32at_toNat _ _ (by omega), le32at_toNat _ _ (by omega)]
  rfl

/-- The counter words of counter setup hold the number of CTRBUF (R220). -/
theorem counterSetup_holdsCounter (s : State) (X : Block) :
    holdsCounter s (counterSetup (counterOf s) X)[12] (counterSetup (counterOf s) X)[13] := by
  have low : (counterSetup (counterOf s) X)[12] = counterLow (counterOf s) := counterSetup_get _ X 12
  have high : (counterSetup (counterOf s) X)[13] = counterHigh (counterOf s) := counterSetup_get _ X 13
  rw [holdsCounter, low, high, counter_halves, counterOf_toNat]

/-- Counter setup keeps every other word (R221). -/
theorem counterSetup_other (c : BitVec 64) (X : Block) (i : Idx) (h12 : i ≠ 12) (h13 : i ≠ 13) :
    (counterSetup c X)[i] = X[i] := by
  rw [counterSetup_get, if_neg h12, if_neg h13]

/-! ### Output words and their bytes -/

/-- An output word is the word of ROUNDS/2 double rounds plus the word of the pre-round snapshot (R153, R171). -/
theorem outputWords_get (S : Block) (r : BitVec 5) (i : Idx) :
    (outputWords S r)[i] = (doubleRound^[r.toNat / 2] S)[i] + S[i] := by
  rw [outputWords, feedForward_get, permute, doubleRounds_eq_iterate]

/-- Byte 4i + j of the serialization is byte j of word i (R172). -/
theorem serialize_byte (W : Block) (i : Fin 16) (j : Fin 4) :
    (serialize W)[4 * i.val + j.val]'(by omega) = byteOf W[i] j.val := by
  have hword : (4 * i.val + j.val) / 4 = i.val := by omega
  have hbyte : (4 * i.val + j.val) % 4 = j.val := by omega
  simpa only [Fin.getElem_fin, hword, hbyte] using serialize_get W ⟨4 * i.val + j.val, by omega⟩

/-! ### The obligation -/

/-- GEN and APPLY pass their checks on an engine with an instance when LEN is 64 (R253, R255). -/
theorem keyed_length_no_cause {s : State} (h : s.KEYED = true) : (requireKeyed s <|> requireLength 64) = none :=
  (Option.orElse_eq_none _ _).mpr ⟨if_pos h, requireLength_eq_none.mpr rfl⟩

/-- A running engine with an instance completes GEN 64 and writes S, W and DBUF alone (R173). -/
theorem exec_gen {s : State} (hs : keyedUp s) :
    exec (.gen 64) s = .next { s with
      S := counterSetup (counterOf s) s.S
      W := outputWords (counterSetup (counterOf s) s.S) s.ROUNDS
      DBUF := serialize (outputWords (counterSetup (counterOf s) s.S) s.ROUNDS) } :=
  exec_effect hs.1 (keyed_length_no_cause hs.2)

/-- Settles O19: S after counter setup is the pre-round snapshot, and the rest is one fact per part of the block
function. -/
theorem genWritesTheKeystreamBlock : Obligations.GenWritesTheKeystreamBlock := by
  intro s hs
  exact ⟨counterSetup (counterOf s) s.S, outputWords _ s.ROUNDS, serialize _, exec_gen hs,
    counterSetup_holdsCounter s s.S, counterSetup_other _ s.S, outputWords_get _ s.ROUNDS, serialize_byte _⟩

end Sys2Proof.Machine

/-! PROOFS. What a command can leave in the stored state, and that the input ports, CTRBUF among them, are out of its reach
(44_counter_setter.md R220 to R222). -/

namespace Sys2Proof.Machine

/-! ### What no command touches -/

/-- No effect writes an input port, the configuration or the host's side. -/
theorem commandEffect_sameOutside (i : Instr) (s : State) : sameOutside s (commandEffect i s) := by
  cases i <;> simp [sameOutside, commandEffect, computeBlock]

theorem exec_sameOutside {i : Instr} {s t : State} (h : exec i s = .next t) : sameOutside s t := by
  rw [exec_eq_issue] at h
  exact issue_sameOutside (commandEffect_sameOutside i s) h

/-! ### The stored state -/

/-- The stored states a command can leave: the one it found, that one after counter setup (SETCTR, GEN and APPLY), or the
initial state of the ports (INIT). -/
def StoredStateAfter (i : Instr) (s : State) (X : Block) : Prop :=
  X = s.S ∨ X = counterSetup (counterOf s) s.S ∨ (∃ r, i = .init r) ∧ X = initState s.KEYBUF s.NONCEBUF

theorem commandEffect_storedStateAfter (i : Instr) (s : State) : StoredStateAfter i s (commandEffect i s).S := by
  cases i with
  | init r => exact .inr (.inr ⟨⟨r, rfl⟩, rfl⟩)
  | setctr | gen _ | apply _ => exact .inr (.inl (by simp [commandEffect, computeBlock]))
  | nop | qr _ _ _ _ | dr | ldw | ffw | wload _ | wstore _ => exact .inl (by simp [commandEffect])

theorem exec_storedStateAfter {i : Instr} {s t : State} (h : exec i s = .next t) : StoredStateAfter i s t.S := by
  obtain ⟨-, rfl⟩ | ⟨-, k, -, rfl⟩ | ⟨-, -, rfl⟩ := exec_cases h
  · exact .inl rfl
  · exact .inl (raiseFault_S s k (encode i))
  · exact commandEffect_storedStateAfter i s

/-! ### The obligation -/

/-- Settles O42: of the stored states a command can leave, counter setup puts the number of CTRBUF into words 12 and 13 and
the initial state has zeros there. -/
theorem noCommandIncrementsTheCounter : Obligations.NoCommandIncrementsTheCounter := by
  intro i s t h
  obtain ⟨hKEYBUF, hNONCEBUF, hCTRBUF, hconfig, hpending, hreads⟩ := exec_sameOutside h
  refine ⟨hCTRBUF, hKEYBUF, hNONCEBUF, hconfig, hpending, hreads, ?_⟩
  obtain hS | hS | ⟨hinit, hS⟩ := exec_storedStateAfter h <;> rw [hS]
  · exact .inl ⟨rfl, rfl⟩
  · exact .inr (.inl (counterSetup_holdsCounter s s.S))
  · exact .inr (.inr ⟨hinit, rfl, rfl⟩)

end Sys2Proof.Machine

/-! PROOFS. The words that decode, each the encoding of a command the engine has (30_encoding.md R92 to R94), and the words
that do not (60_exceptions.md R252). -/

namespace Sys2Proof

/-! ### Words that decode -/

/-- No two words decode to one command: the command's encoding is the word. -/
theorem encode_of_decode {d : Bool} {v : Word} {i : Instr} (h : decode d v = .ok i) : encode i = v := by
  have formatN (op : Word) (hv : v.toNat % 16 = op.toNat) (hlt : v.toNat < 2 ^ 4) : op = v := by
    apply BitVec.eq_of_toNat_eq
    omega
  have formatL (op : Word) (hop : op.toNat < 16) (hv : v.toNat % 16 = op.toNat) (hlt : v.toNat < 2 ^ 11) :
      lenAt (lenField v) ||| op = v := by
    apply BitVec.eq_of_toNat_eq
    rw [lenAt_or_toNat _ _ hop, lenField_toNat]
    omega
  obtain ⟨hv, hlt, rfl⟩ | ⟨hv, hlt, rfl⟩ | ⟨hv, hlt, rfl⟩ | ⟨hv, hlt, rfl⟩ | ⟨hv, hlt, rfl⟩ | ⟨hv, -, hlt, rfl⟩ |
    ⟨hv, -, hlt, rfl⟩ | ⟨hv, -, hlt, rfl⟩ | ⟨hv, -, hlt, rfl⟩ | ⟨hv, -, hlt, rfl⟩ | ⟨hv, -, hlt, rfl⟩ := decode_ok h
  · exact formatN 0x0 hv hlt
  · apply BitVec.eq_of_toNat_eq
    rw [encode_init_toNat, roundsField_toNat]
    omega
  · exact formatN 0x2 hv hlt
  · exact formatL 0x3 (by decide) hv hlt
  · exact formatL 0x4 (by decide) hv hlt
  · apply BitVec.eq_of_toNat_eq
    simp only [encode_qr_toNat, idxField_val]
    omega
  · exact formatN 0x6 hv hlt
  · exact formatN 0x7 hv hlt
  · exact formatN 0x8 hv hlt
  · exact formatL 0x9 (by decide) hv hlt
  · exact formatL 0xA (by decide) hv hlt

/-- A word decodes to a command of the engine: a primitive one only with DEBUG_CMDS true (R90). -/
theorem wellFormed_of_decode {d : Bool} {v : Word} {i : Instr} (h : decode d v = .ok i) : WellFormed d i = true := by
  cases d with
  | true => rfl
  | false =>
    have hrows := decode_ok h
    simp only [Bool.false_eq_true, false_and, and_false, or_false] at hrows
    obtain ⟨-, -, rfl⟩ | ⟨-, -, rfl⟩ | ⟨-, -, rfl⟩ | ⟨-, -, rfl⟩ | ⟨-, -, rfl⟩ := hrows <;> rfl

/-! ### Words that do not -/

/-- A row of the decoder rejects a word exactly for a 1 in the bits above the format's fields (R89). -/
theorem zeroFrom_rejects_iff {lo n : Nat} (h : lo + n = 32) (v : Word) (i : Instr) :
    (∀ j, zeroFrom lo v i ≠ .ok j) ↔ v.extractLsb' lo n ≠ 0 := by
  simp only [ne_eq, zeroFrom_ok, top_bits_eq_zero_iff v h, shiftRight_eq_zero]
  simp

/-- A primitive command's row rejects besides every word while DEBUG_CMDS is false (R90). -/
theorem debugOnly_rejects_iff (d : Bool) (r : Except Illegal Instr) :
    (∀ j, debugOnly d r ≠ .ok j) ↔ d = false ∨ ∀ j, r ≠ .ok j := by
  cases d <;> simp [debugOnly]

/-- The words that do not decode, by their opcode (R252). -/
theorem decode_rejects_iff (d : Bool) (v : Word) :
    (∀ i, decode d v ≠ .ok i) ↔
      (0xB ≤ v.toNat % 16 ∨
        (v.toNat % 16 ∈ [0x0, 0x2, 0x6, 0x7, 0x8] ∧ v.extractLsb' 4 28 ≠ 0) ∨
        (v.toNat % 16 = 0x1 ∧ v.extractLsb' 9 23 ≠ 0) ∨
        (v.toNat % 16 ∈ [0x3, 0x4, 0x9, 0xA] ∧ v.extractLsb' 11 21 ≠ 0) ∨
        (v.toNat % 16 = 0x5 ∧ v.extractLsb' 20 12 ≠ 0) ∨
        (5 ≤ v.toNat % 16 ∧ v.toNat % 16 ≤ 0xA ∧ d = false)) := by
  have hN := zeroFrom_rejects_iff (show 4 + 28 = 32 from rfl) v
  have hR := zeroFrom_rejects_iff (show 9 + 23 = 32 from rfl) v
  have hL := zeroFrom_rejects_iff (show 11 + 21 = 32 from rfl) v
  have hQ := zeroFrom_rejects_iff (show 20 + 12 = 32 from rfl) v
  unfold decode
  split
  case h_12 =>
    -- OP is none of the map's opcodes, hence reserved (R88).
    have hreserved : 0xB ≤ v.toNat % 16 := by
      rw [← opField_eq]
      grind
    simp [hreserved]
  all_goals
    rename_i hop
    rw [opField_eq] at hop
    simp [hop, debugOnly_rejects_iff, hN, hR, hL, hQ, or_comm]

end Sys2Proof

/-! PROOFS. Faults: the one cause of a command and of a command word, in the priority of R256, and what taking the fault
writes (60_exceptions.md R251 to R258). -/

namespace Sys2Proof.Machine

open Sys2Proof.Claims

/-! ### Causes -/

theorem FaultCode.code_injective : Function.Injective FaultCode.code := by
  intro k k' h
  cases k <;> cases k' <;> simp [FaultCode.code] at h ⊢

/-- Taking a fault writes its code and the word, and nothing else (R257, R258). -/
theorem raiseFault_eq_halted (k : FaultCode) (v : Word) (s : State) : raiseFault k v s = halted s k.code v := rfl

theorem requireLength_eq (l : BitVec 7) : requireLength l = if l.toNat = 64 then none else some .badLength := by
  simp [requireLength, ← BitVec.toNat_inj]

theorem requireRounds_eq (r : BitVec 5) :
    requireRounds r = if r.toNat ∈ [8, 12, 20] then none else some .badRounds := by
  simp [requireRounds, ← BitVec.toNat_inj]

/-- A command's one cause, by priority: it is no command of the engine, it lacks an engine instance, its operand is out of
range (R256). -/
theorem commandCause_eq (i : Instr) (s : State) :
    commandCause i s =
      if WellFormed s.config.DEBUG_CMDS i then
        if requiresInstance i && !s.KEYED then some .notKeyed else operandCause i
      else some .illegalCmd := by
  cases i with
  | nop | init _ =>
    simp [commandCause, WellFormed, Instr.isDebug, requiresInstance, operandCause, requireRounds_eq]
  | setctr | gen _ | apply _ =>
    cases hk : s.KEYED <;>
      simp [commandCause, WellFormed, Instr.isDebug, requiresInstance, operandCause, requireKeyed, requireLength_eq, hk]
  | qr _ _ _ _ | dr | wload _ | wstore _ =>
    cases hd : s.config.DEBUG_CMDS <;>
      simp [commandCause, WellFormed, Instr.isDebug, requiresInstance, operandCause, requireDebug, requireLength_eq, hd]
  | ldw | ffw =>
    cases hd : s.config.DEBUG_CMDS <;> cases hk : s.KEYED <;>
      simp [commandCause, WellFormed, Instr.isDebug, requiresInstance, operandCause, requireDebug, requireKeyed, hd, hk]

/-- The operand's cause is one of its own two (R254, R255). -/
theorem operandCause_cases {i : Instr} {k : FaultCode} (h : operandCause i = some k) :
    k = .badRounds ∨ k = .badLength := by
  cases i with
  | nop | setctr | qr _ _ _ _ | dr | ldw | ffw => simp [operandCause] at h
  | init _ => exact .inl (by simp_all [operandCause])
  | gen _ | apply _ | wload _ | wstore _ => exact .inr (by simp_all [operandCause])

/-! ### Commands -/

/-- A command of a running engine that no check stops completes without a fault. -/
theorem exec_completes {i : Instr} {s : State} (hs : running s) (hc : commandCause i s = none) :
    ∃ t, exec i s = .next t ∧ t.FAULTED = false :=
  ⟨_, exec_effect hs hc, (commandEffect_FAULTED i s).trans hs⟩

/-- Without an engine instance, NOT_KEYED comes before the operand's cause (R253, R256). -/
theorem commandCause_eq_notKeyed {i : Instr} {s : State} (hw : WellFormed s.config.DEBUG_CMDS i = true)
    (hi : requiresInstance i = true) (hk : s.KEYED = false) : commandCause i s = some .notKeyed := by
  simp [commandCause_eq, hw, hi, hk]

/-- The operand's cause is what remains of a command that lacks no engine instance (R256). -/
theorem commandCause_eq_operandCause {i : Instr} {s : State} (hw : WellFormed s.config.DEBUG_CMDS i = true)
    (hi : requiresInstance i = false ∨ s.KEYED = true) : commandCause i s = operandCause i := by
  obtain hi | hi := hi <;> simp [commandCause_eq, hw, hi]

/-! ### Command words -/

/-- A word with a cause raises that one fault, which records the word (R256, R257). -/
theorem command_fault {s : State} {v : Word} (k : FaultCode) (hs : running s)
    (hc : wordCause s.config.DEBUG_CMDS s.KEYED v = some k) : command v s = .next (halted s k.code v) := by
  unfold wordCause at hc
  split at hc
  · next e hd =>
    cases hc
    exact command_of_illegal hs (by simp [hd])
  · next i hd =>
    have hcause : commandCause i s = some k := by
      rw [commandCause_eq, if_pos (wellFormed_of_decode hd), hc]
    rw [command_of_decode hd, exec_fault hs hcause, encode_of_decode hd, raiseFault_eq_halted]

/-- A word without a cause completes without a fault (R256). -/
theorem command_completes {s : State} {v : Word} (hs : running s)
    (hc : wordCause s.config.DEBUG_CMDS s.KEYED v = none) : ∃ t, command v s = .next t ∧ t.FAULTED = false := by
  unfold wordCause at hc
  split at hc
  · cases hc
  · next i hd =>
    have hcause : commandCause i s = none := by
      rw [commandCause_eq, if_pos (wellFormed_of_decode hd), hc]
    rw [command_of_decode hd]
    exact exec_completes hs hcause

/-- A word that leaves a running engine halted has a cause, and raised its fault. -/
theorem command_halts {s t : State} {v : Word} (hs : running s) (h : command v s = .next t) (hf : t.FAULTED = true) :
    ∃ k, wordCause s.config.DEBUG_CMDS s.KEYED v = some k ∧ t = halted s k.code v := by
  cases hc : wordCause s.config.DEBUG_CMDS s.KEYED v with
  | some k =>
    rw [command_fault k hs hc] at h
    cases h
    exact ⟨k, rfl, rfl⟩
  | none =>
    obtain ⟨u, hu, huf⟩ := command_completes hs hc
    rw [h] at hu
    cases hu
    simp [huf] at hf

theorem wordCause_of_rejects {d keyed : Bool} {v : Word} (h : ∀ i, decode d v ≠ .ok i) :
    wordCause d keyed v = some .illegalCmd := by
  unfold wordCause
  split
  · rfl
  · next i hi => exact absurd hi (h i)

theorem wordCause_of_decode {d keyed : Bool} {v : Word} {i : Instr} (h : decode d v = .ok i) :
    wordCause d keyed v = if requiresInstance i && !keyed then some .notKeyed else operandCause i := by
  rw [wordCause, h]

/-- ILLEGAL_CMD is the cause of the words that do not decode, and of no other (R252). -/
theorem wordCause_eq_illegalCmd_iff {d keyed : Bool} {v : Word} :
    wordCause d keyed v = some .illegalCmd ↔ ∀ i, decode d v ≠ .ok i := by
  refine ⟨fun h i hd => ?_, wordCause_of_rejects⟩
  rw [wordCause_of_decode hd] at h
  split at h
  · cases h
  · simpa using operandCause_cases h

/-! ### The obligations -/

/-- Settles O8: a word raises its `wordCause`, which each clause computes. -/
theorem firstCauseWins : Obligations.FirstCauseWins := by
  refine ⟨fun s v hs => if_pos hs, fun s v hs hd => command_fault .illegalCmd hs (wordCause_of_rejects hd),
    fun s v i hs hd => ⟨fun hi hk => command_fault .notKeyed hs ?_, fun hi => ?_, ?_, ?_⟩,
    command_fault .notKeyed rfl rfl, fun s hs => command_fault .illegalCmd hs rfl⟩
  · simp [wordCause_of_decode hd, hi, hk]
  · have hc : wordCause s.config.DEBUG_CMDS s.KEYED v = operandCause i := by
      obtain hi | hi := hi <;> simp [wordCause_of_decode hd, hi]
    exact ⟨fun h => command_fault .badRounds hs (hc.trans h), fun h => command_fault .badLength hs (hc.trans h),
      fun h => command_completes hs (hc.trans h)⟩
  · exact fun h => by simpa using operandCause_cases h
  · exact fun h => by simpa using operandCause_cases h

/-- Settles O9: the new state is `halted` with the code of the word's cause. -/
theorem faultsArePrecise : Obligations.FaultsArePrecise := by
  intro s t v hs h hf
  obtain ⟨k, -, rfl⟩ := command_halts hs h hf
  refine ⟨k.code, ?_, rfl⟩
  cases k <;> simp [FaultCode.code]

/-- Settles O10: ILLEGAL_CMD is the cause of exactly the words that do not decode. -/
theorem illegalWordsExactly : Obligations.IllegalWordsExactly := by
  intro s v hs
  rw [← decode_rejects_iff, ← wordCause_eq_illegalCmd_iff (keyed := s.KEYED)]
  refine ⟨fun h => ?_, command_fault .illegalCmd hs⟩
  obtain ⟨k, hc, ht⟩ := command_halts hs h rfl
  have hcode : FaultCode.illegalCmd.code = k.code := congrArg State.FCODE ht
  rw [hc, FaultCode.code_injective hcode]

/-- Settles O11: without an instance the check on KEYED is the first to fail; with one it never fails. -/
theorem notKeyedWithoutInstance : Obligations.NotKeyedWithoutInstance := by
  refine ⟨fun s i hs hk hi => exec_fault (k := .notKeyed) hs ?_, fun s t i hs hk h hf hcode => ?_⟩
  · obtain ⟨hw, hneeds⟩ : WellFormed s.config.DEBUG_CMDS i = true ∧ requiresInstance i = true := by
      obtain rfl | ⟨l, rfl⟩ | ⟨l, rfl⟩ | ⟨rfl | rfl, hd⟩ := hi <;> simp [WellFormed, Instr.isDebug, requiresInstance, *]
    exact commandCause_eq_notKeyed hw hneeds hk
  · obtain ⟨hs', -⟩ | ⟨-, k, hc, rfl⟩ | ⟨-, -, rfl⟩ := exec_cases h
    · simp [hs] at hs'
    · obtain rfl : k = .notKeyed := FaultCode.code_injective hcode
      cases hw : WellFormed s.config.DEBUG_CMDS i with
      | false => simp [commandCause_eq, hw] at hc
      | true =>
        rw [commandCause_eq_operandCause hw (.inr hk)] at hc
        simpa using operandCause_cases hc
    · simp [commandEffect_FAULTED, hs] at hf

/-- Settles O12: INIT's one check is on its operand. -/
theorem badRoundsOutsideTheClosedSet : Obligations.BadRoundsOutsideTheClosedSet := by
  refine fun s r hs => ⟨fun hr => exec_fault (k := .badRounds) hs ?_, fun hr => ?_⟩
  · rw [commandCause, requireRounds_eq, if_neg (by simp [hr])]
  · have hr : r = 8 ∨ r = 12 ∨ r = 20 := by simpa [← BitVec.toNat_inj] using hr
    exact ⟨_, exec_init hs hr, hs, rfl, rfl⟩

/-- Settles O13: for the four commands the only cause left is the operand's. -/
theorem badLengthUnlessSixtyFour : Obligations.BadLengthUnlessSixtyFour := by
  intro s i l hs hi
  have hc : commandCause i s = if l.toNat = 64 then none else some .badLength := by
    obtain ⟨rfl | rfl, hk⟩ | ⟨rfl | rfl, hd⟩ := hi
    case inl.inl | inl.inr => exact commandCause_eq_operandCause (Bool.or_true _) (.inr hk)
    case inr.inl | inr.inr => exact commandCause_eq_operandCause (by simp [WellFormed, hd]) (.inl rfl)
  exact ⟨fun hl => exec_fault hs (hc.trans (if_neg hl)), fun hl => exec_completes hs (hc.trans (if_pos hl))⟩

end Sys2Proof.Machine

/-! PROOFS. The round trip of decoder and encoder (30_encoding.md R92 to R94): every command's word has its opcode and its
operands in the fields the decoder reads; and the words the assembler's lines give. -/

namespace Sys2Proof

/-! ### The fields of an encoded word -/

/-- A row of the decoder takes a word with no bit above the format's fields (R82 to R85). -/
theorem zeroFrom_of_lt {lo : Nat} {v : Word} (h : v.toNat < 2 ^ lo) (i : Instr) : zeroFrom lo v i = .ok i :=
  zeroFrom_ok.mpr ⟨h, rfl⟩

/-- A word of format L has its OP and LEN where the decoder reads them, and no bit above (R84). -/
theorem lFormat_fields {v : Word} {l : BitVec 7} {op : Nat} (hv : v = lenAt l ||| BitVec.ofNat 32 op)
    (hop : op < 16) : opField v = op ∧ lenField v = l ∧ v.toNat < 2 ^ 11 := by
  have hl := l.isLt
  have hop' : (BitVec.ofNat 32 op).toNat = op := Nat.mod_eq_of_lt (by omega)
  have hnum := lenAt_or_toNat l (BitVec.ofNat 32 op) (by omega)
  rw [← hv, hop'] at hnum
  refine ⟨?_, BitVec.eq_of_toNat_eq ?_, by omega⟩
  · rw [opField_eq]; omega
  · rw [lenField_toNat]; omega

/-- The word of INIT has its OP and ROUNDS_F where the decoder reads them, and no bit above (R83). -/
theorem encode_init_fields (r : BitVec 5) :
    opField (encode (.init r)) = 1 ∧ roundsField (encode (.init r)) = r ∧ (encode (.init r)).toNat < 2 ^ 9 := by
  have hr := r.isLt
  have hv := encode_init_toNat r
  refine ⟨?_, BitVec.eq_of_toNat_eq ?_, by omega⟩
  · rw [opField_eq]; omega
  · rw [roundsField_toNat]; omega

/-- The word of QR has its OP and indices where the decoder reads them, and no bit above (R85). -/
theorem encode_qr_fields (a b c d : Idx) :
    opField (encode (.qr a b c d)) = 5 ∧ idxField (encode (.qr a b c d)) 4 = a ∧
      idxField (encode (.qr a b c d)) 8 = b ∧ idxField (encode (.qr a b c d)) 12 = c ∧
      idxField (encode (.qr a b c d)) 16 = d ∧ (encode (.qr a b c d)).toNat < 2 ^ 20 := by
  have hv := encode_qr_toNat a b c d
  refine ⟨?_, Fin.ext ?_, Fin.ext ?_, Fin.ext ?_, Fin.ext ?_, by omega⟩
  · rw [opField_eq]; omega
  all_goals rw [idxField_val]; omega

/-! ### The round trip -/

/-- Decoding a command's word gives the command back on an engine that has it. -/
theorem decode_encode {d : Bool} {i : Instr} (hw : WellFormed d i = true) : decode d (encode i) = .ok i := by
  have hdebug : i.isDebug = true → d = true := by cases d <;> simp_all [WellFormed]
  cases i with
  | nop | setctr => rfl
  | dr | ldw | ffw =>
    obtain rfl := hdebug rfl
    rfl
  | init r =>
    obtain ⟨hop, hr, hlt⟩ := encode_init_fields r
    simp only [decode, hop, hr, zeroFrom_of_lt hlt]
  | gen l =>
    obtain ⟨hop, hl, hlt⟩ := lFormat_fields (v := encode (.gen l)) (op := 0x3) rfl (by decide)
    simp only [decode, hop, hl, zeroFrom_of_lt hlt]
  | apply l =>
    obtain ⟨hop, hl, hlt⟩ := lFormat_fields (v := encode (.apply l)) (op := 0x4) rfl (by decide)
    simp only [decode, hop, hl, zeroFrom_of_lt hlt]
  | wload l =>
    obtain ⟨hop, hl, hlt⟩ := lFormat_fields (v := encode (.wload l)) (op := 0x9) rfl (by decide)
    simp only [decode, hop, hl, zeroFrom_of_lt hlt, debugOnly, hdebug rfl, if_true]
  | wstore l =>
    obtain ⟨hop, hl, hlt⟩ := lFormat_fields (v := encode (.wstore l)) (op := 0xA) rfl (by decide)
    simp only [decode, hop, hl, zeroFrom_of_lt hlt, debugOnly, hdebug rfl, if_true]
  | qr a b c d' =>
    obtain ⟨hop, ha, hb, hc, hd, hlt⟩ := encode_qr_fields a b c d'
    simp only [decode, hop, ha, hb, hc, hd, zeroFrom_of_lt hlt, debugOnly, hdebug rfl, if_true]

/-- Settles O2: the decoder's row is the one of the word's opcode, and reads the command's own operands. -/
theorem decodeOfEncode : Obligations.DecodeOfEncode := fun _ _ => decode_encode

/-- Settles O3: the row a word decodes by fixes its opcode, its operands and its other bits. -/
theorem encodeOfDecode : Obligations.EncodeOfDecode := fun _ _ _ h => ⟨encode_of_decode h, wellFormed_of_decode h⟩

/-- Settles O1: each word is the encoding of its command. -/
theorem specWordsDecode : Obligations.SpecWordsDecode :=
  ⟨decode_encode (i := .nop) rfl, decode_encode (i := .init 8) rfl, decode_encode (i := .init 12) rfl,
    decode_encode (i := .init 20) rfl, decode_encode (i := .setctr) rfl, decode_encode (i := .gen 64) rfl,
    decode_encode (i := .apply 64) rfl, decode_encode (i := .qr 0 4 8 12) rfl, decode_encode (i := .qr 2 7 8 13) rfl,
    decode_encode (i := .dr) rfl, decode_encode (i := .ldw) rfl, decode_encode (i := .ffw) rfl,
    decode_encode (i := .wload 64) rfl, decode_encode (i := .wstore 64) rfl⟩

end Sys2Proof

namespace Sys2Proof.Machine

/-! ### The assembler's lines -/

/-- A field's number shifted to its place is the shifted number as a word (R94). -/
theorem ofNat_shiftLeft (x k : Nat) : BitVec.ofNat 32 x <<< k = BitVec.ofNat 32 (x <<< k) := by
  apply BitVec.eq_of_toNat_eq
  simp [Nat.shiftLeft_eq]

theorem lenAt_ofNat {l : Nat} (h : l < 128) : lenAt (BitVec.ofNat 7 l) = BitVec.ofNat 32 (l <<< 4) := by
  rw [lenAt, ← ofNat_shiftLeft, BitVec.setWidth_ofNat_of_le_of_lt (by decide) h]

theorem roundsAt_ofNat {r : Nat} (h : r < 32) : roundsAt (BitVec.ofNat 5 r) = BitVec.ofNat 32 (r <<< 4) := by
  rw [roundsAt, ← ofNat_shiftLeft, BitVec.setWidth_ofNat_of_le_of_lt (by decide) h]

/-- An `init` line (R94). -/
theorem assemble_init (r : Nat) :
    assemble (.init r) = if r < 32 then some (BitVec.ofNat 32 (r <<< 4 ||| 0x1)) else none := by
  simp only [assemble, AsmLine.instr, inField]
  split
  · next hr => simp [encode, roundsAt_ofNat hr, BitVec.ofNat_or]
  · rfl

/-- A line with a length, for the command `mk` with the opcode `op` (R94). -/
theorem lengthOperand_word {mk : BitVec 7 → Instr} {op : Nat}
    (hmk : ∀ l, encode (mk l) = lenAt l ||| BitVec.ofNat 32 op) (l : Nat) :
    ((lengthOperand (some l)).map mk).map encode =
      if l < 128 then some (BitVec.ofNat 32 (l <<< 4 ||| op)) else none := by
  simp only [lengthOperand, inField, Option.getD_some]
  split
  · next hl => simp [hmk, lenAt_ofNat hl, BitVec.ofNat_or]
  · rfl

theorem lt_of_indexOperand {n : Nat} {i : Idx} (h : indexOperand n = some i) : n < 16 := by
  by_contra hn
  simp [indexOperand, hn] at h

/-- A `qr` line (R94). -/
theorem assemble_qr (a b c d : Nat) :
    assemble (.qr a b c d) = if a < 16 ∧ b < 16 ∧ c < 16 ∧ d < 16 then
      some (BitVec.ofNat 32 (d <<< 16 ||| c <<< 12 ||| b <<< 8 ||| a <<< 4 ||| 0x5)) else none := by
  split
  · next h =>
    obtain ⟨ha, hb, hc, hd⟩ := h
    simp [assemble, AsmLine.instr, indexOperand, ha, hb, hc, hd, encode, idxAt, ofNat_shiftLeft, BitVec.ofNat_or]
  · next h =>
    simp only [assemble, AsmLine.instr]
    split
    · next ha hb hc hd =>
      exact absurd ⟨lt_of_indexOperand ha, lt_of_indexOperand hb, lt_of_indexOperand hc, lt_of_indexOperand hd⟩ h
    · rfl

/-- A `.word` line gives the raw word (R94). -/
theorem assemble_word (v : Word) : assemble (.word v.toNat) = some v := by
  simp [assemble, inField, v.isLt]

/-- Settles O5: a line's word is its command's encoding, whose operands are the numbers written when they fit. -/
theorem assemblerProducesTheEncodedWords : Obligations.AssemblerProducesTheEncodedWords :=
  ⟨rfl, rfl, rfl, rfl, rfl, assemble_init,
    lengthOperand_word (mk := .gen) (op := 0x3) fun _ => rfl,
    lengthOperand_word (mk := .apply) (op := 0x4) fun _ => rfl,
    lengthOperand_word (mk := .wload) (op := 0x9) fun _ => rfl,
    lengthOperand_word (mk := .wstore) (op := 0xA) fun _ => rfl,
    assemble_qr, rfl, rfl, rfl, rfl, assemble_word⟩

end Sys2Proof.Machine

/-! PROOFS. Command words and host steps, inverted once: what each leaves in the registers of an engine instance and of a
fault, and what keeps the invariant (10_state.md R22 to R26, 60_exceptions.md R256 to R260). -/

namespace Sys2Proof.Machine

open Sys2Proof.Claims

/-! ### Command words -/

theorem exec_answers (i : Instr) (s : State) : ∃ t, exec i s = .next t := by
  rw [exec_eq_issue]
  exact issue_answers i _ _ s

theorem command_halted {s : State} (hf : s.FAULTED = true) (v : Word) : command v s = .next s := if_pos hf

/-- A word without a cause decodes, and what it decodes to passes its checks (R256). -/
theorem decode_of_no_cause {s : State} {v : Word} (hc : wordCause s.config.DEBUG_CMDS s.KEYED v = none) :
    ∃ i, decode s.config.DEBUG_CMDS v = .ok i ∧ commandCause i s = none := by
  unfold wordCause at hc
  split at hc
  · cases hc
  · next i hd => exact ⟨i, hd, by rw [commandCause_eq, if_pos (wellFormed_of_decode hd), hc]⟩

/-- Everything a command word can do: nothing (halted), raise its one fault, or have the effect of what it decodes to. -/
theorem command_cases {v : Word} {s t : State} (h : command v s = .next t) :
    (s.FAULTED = true ∧ t = s) ∨
    (running s ∧ ∃ k, wordCause s.config.DEBUG_CMDS s.KEYED v = some k ∧ t = raiseFault k v s) ∨
    (running s ∧ ∃ i, decode s.config.DEBUG_CMDS v = .ok i ∧ commandCause i s = none ∧ t = commandEffect i s) := by
  cases hf : s.FAULTED with
  | true =>
    rw [command_halted hf] at h
    cases h
    exact .inl ⟨rfl, rfl⟩
  | false =>
    cases hc : wordCause s.config.DEBUG_CMDS s.KEYED v with
    | some k =>
      rw [command_fault k hf hc] at h
      cases h
      exact .inr (.inl ⟨hf, k, rfl, rfl⟩)
    | none =>
      obtain ⟨i, hd, hcause⟩ := decode_of_no_cause hc
      rw [command_of_decode hd, exec_effect hf hcause] at h
      cases h
      exact .inr (.inr ⟨hf, i, hd, hcause, rfl⟩)

theorem command_answers (v : Word) (s : State) : ∃ t, command v s = .next t := by
  cases hd : decode s.config.DEBUG_CMDS v with
  | ok i =>
    rw [command_of_decode hd]
    exact exec_answers i s
  | error e =>
    cases hf : s.FAULTED with
    | true => exact ⟨s, command_halted hf v⟩
    | false => exact ⟨_, command_of_illegal hf (by simp [hd])⟩

/-- A command word touches neither the configuration nor the host's side. -/
theorem command_hostSide {v : Word} {s t : State} (h : command v s = .next t) :
    t.config = s.config ∧ t.pending = s.pending := by
  obtain ⟨-, rfl⟩ | ⟨-, k, -, rfl⟩ | ⟨-, i, -, -, rfl⟩ := command_cases h
  · exact ⟨rfl, rfl⟩
  · exact ⟨rfl, rfl⟩
  · obtain ⟨-, -, -, hconfig, hpending, -⟩ := commandEffect_sameOutside i s
    exact ⟨hconfig, hpending⟩

/-! ### Steps, by the host step that is next -/

/-- A step is the first pending host step, taken off the list (R62). -/
theorem step_pending {s : State} {a : HostStep} {rest : List HostStep} (hp : s.pending = a :: rest) :
    step s = hostStep a (s.withPending rest) := by
  simp [step, nextHostStep, hp]

theorem step_idle {s : State} (hp : s.pending = []) : step s = .next s := by
  simp [step, nextHostStep, hp]

theorem step_reset {s : State} {rest : List HostStep} (hp : s.pending = .reset :: rest) :
    step s = .next (resetEngine (s.withPending rest)) :=
  step_pending hp

/-- A read that is taken gives the host its value and leaves the engine as it is (R61). -/
theorem step_read_next {s t : State} {addr n : Nat} {rest : List HostStep} (h : step s = .next t)
    (hp : s.pending = .read addr n :: rest) :
    t = (s.withPending rest).withRead (readBytes s (addr - s.config.ENGINE_BASE) n) := by
  obtain ⟨hp', -⟩ | ⟨_, hp', -⟩ | ⟨_, _, _, hp', rfl⟩ | ⟨_, _, hp', -⟩ | ⟨_, _, _, _, hp', -⟩ := step_cases h
  all_goals cases hp.symm.trans hp'
  rfl

/-- A write that is taken runs a command at CMD with width 4, and otherwise stores its bytes (R53, R59). -/
theorem step_write_next {s t : State} {addr n : Nat} {v : Word} {rest : List HostStep} (h : step s = .next t)
    (hp : s.pending = .write addr n v :: rest) :
    (addr = s.config.ENGINE_BASE ∧ n = 4 ∧ command v (s.withPending rest) = .next t) ∨
      (¬(addr = s.config.ENGINE_BASE ∧ n = 4) ∧
        t = writeBytes (addr - s.config.ENGINE_BASE) v n (s.withPending rest)) := by
  obtain ⟨hp', -⟩ | ⟨_, hp', -⟩ | ⟨_, _, _, hp', -⟩ | ⟨_, _, hp', hcmd⟩ | ⟨_, _, _, _, hp', -, -, -, -, hn, rfl⟩ :=
    step_cases h
  all_goals cases hp.symm.trans hp'
  · exact .inl ⟨rfl, rfl, hcmd⟩
  · exact .inr ⟨hn, rfl⟩

/-! ### The obligations on single commands and words -/

/-- Settles O6: the host step at the head of `pending` is the 32-bit write to CMD. -/
theorem stepRunsDecodedCommand : Obligations.StepRunsDecodedCommand := by
  intro s v i hd
  refine ⟨fun rest hp => (step_command hp).trans (command_of_decode hd), ?_⟩
  have hv : BitVec.ofNat 32 (v.toNat % 2 ^ 32) = v := by
    rw [Nat.mod_eq_of_lt v.isLt, BitVec.ofNat_toNat, BitVec.setWidth_eq]
  have hp : (s.withFetchWord 32 v.toNat).pending = .write s.config.ENGINE_BASE 4 v :: s.pending := by
    rw [State.withFetchWord, State.withPending_pending, hv, issueWord]
  exact (step_command hp).trans (command_of_decode hd)

/-- Settles O7: of the three things a command can do, only the fault halts a running engine. -/
theorem everyCommandAnswersNext : Obligations.EveryCommandAnswersNext := by
  intro i s
  obtain ⟨t, h⟩ := exec_answers i s
  refine ⟨t, h, fun hf => ?_, fun hs hf => ?_⟩
  · rw [exec_halted i hf] at h
    cases h
    rfl
  · obtain ⟨hs', -⟩ | ⟨-, k, -, rfl⟩ | ⟨-, -, rfl⟩ := exec_cases h
    · simp [hs] at hs'
    · rfl
    · simp [commandEffect_FAULTED, hs] at hf

/-- Settles O14: such a word does not decode, and such a command is none of the engine. -/
theorem primitiveCommandsNeedDebug : Obligations.PrimitiveCommandsNeedDebug := by
  intro s hs hd
  refine ⟨fun v hlo hhi => command_fault .illegalCmd hs (wordCause_of_rejects ?_), fun i hi => ?_⟩
  · rw [decode_rejects_iff]
    simp [hlo, hhi, hd]
  · have hcause : commandCause i s = some .illegalCmd := by simp [commandCause_eq, WellFormed, hd, hi]
    exact exec_fault hs hcause

/-- Settles O16: NOP has no checks, and its effect is no change. -/
theorem nopWritesNothing : Obligations.NopWritesNothing := by
  intro s
  cases hf : s.FAULTED with
  | true => exact exec_halted .nop hf
  | false => exact exec_effect hf rfl

/-! ### The registers of an engine instance -/

/-- The registers of an engine instance that INIT alone writes: ROUNDS, KEYED and S without its counter words (R22). -/
def sameInstance (s t : State) : Prop :=
  t.ROUNDS = s.ROUNDS ∧ t.KEYED = s.KEYED ∧ ∀ k : Idx, k ≠ 12 → k ≠ 13 → t.S[k] = s.S[k]

theorem sameInstance_refl (s : State) : sameInstance s s := ⟨rfl, rfl, fun _ _ _ => rfl⟩

/-- Of the effects, INIT's alone writes the instance; counter setup keeps to words 12 and 13 (R220). -/
theorem commandEffect_sameInstance {i : Instr} (hi : ∀ r, i ≠ .init r) (s : State) :
    sameInstance s (commandEffect i s) := by
  cases i with
  | init r => exact absurd rfl (hi r)
  | setctr | gen _ | apply _ =>
    simpa [sameInstance, commandEffect, computeBlock] using counterSetup_other (counterOf s) s.S
  | nop | qr _ _ _ _ | dr | ldw | ffw | wload _ | wstore _ => simp [sameInstance, commandEffect]

/-- No effect ends an engine instance (R25). -/
theorem commandEffect_keyed (i : Instr) {s : State} (hk : s.KEYED = true) : (commandEffect i s).KEYED = true := by
  cases i <;> simp [commandEffect, computeBlock, hk]

/-- Settles O40: a write that is not a command keeps to the port buffers, and a fault to the fault registers. -/
theorem onlyInitAndResetChangeTheInstance : Obligations.OnlyInitAndResetChangeTheInstance := by
  intro s t h hreset hinit
  show sameInstance s t
  obtain ⟨-, rfl⟩ | ⟨rest, hp, -⟩ | ⟨rest, addr, n, -, rfl⟩ | ⟨rest, v, hp, hcmd⟩ |
    ⟨rest, addr, n, v, -, -, -, -, -, -, rfl⟩ := step_cases h
  · exact sameInstance_refl t
  · exact absurd hp (hreset rest)
  · exact sameInstance_refl s
  · obtain ⟨-, rfl⟩ | ⟨-, k, -, rfl⟩ | ⟨-, i, hd, -, rfl⟩ := command_cases hcmd
    · exact sameInstance_refl s
    · exact sameInstance_refl s
    · have hi : ∀ r, i ≠ .init r := by
        rintro r rfl
        exact hinit v rest r hp hd
      exact commandEffect_sameInstance hi (s.withPending rest)
  · rw [writeBytes_eq]
    exact sameInstance_refl s

/-! ### The host's steps in their order, and the way out of the halted state -/

/-- Settles O53: neither a command nor a byte write reaches the parameters or the list of pending steps. -/
theorem hostStepsAreTakenInOrder : Obligations.HostStepsAreTakenInOrder := by
  refine ⟨fun s t a rest hp h => ?_, fun s hp => step_idle hp⟩
  cases a with
  | read addr n =>
    obtain rfl := step_read_next h hp
    exact ⟨rfl, rfl⟩
  | write addr n v =>
    obtain ⟨-, -, hcmd⟩ | ⟨-, rfl⟩ := step_write_next h hp
    · obtain ⟨hconfig, hpending⟩ := command_hostSide hcmd
      exact ⟨hpending, hconfig⟩
    · rw [writeBytes_eq]
      exact ⟨rfl, rfl⟩
  | reset =>
    rw [step_reset hp] at h
    cases h
    exact ⟨rfl, rfl⟩

/-- A halted engine stays halted with its fault registers, and an engine instance stays in being (R25, R259, R260). -/
def haltKept (s t : State) : Prop :=
  (s.FAULTED = true → t.FAULTED = true ∧ t.FCODE = s.FCODE ∧ t.FAULT_CMD = s.FAULT_CMD) ∧
    (s.KEYED = true → t.KEYED = true)

theorem haltKept_refl (s : State) : haltKept s s := ⟨fun hf => ⟨hf, rfl, rfl⟩, id⟩

/-- A halted engine ignores commands (R259), and none ends an engine instance. -/
theorem exec_haltKept {i : Instr} {s t : State} (h : exec i s = .next t) : haltKept s t := by
  obtain ⟨-, rfl⟩ | ⟨hs, k, -, rfl⟩ | ⟨hs, -, rfl⟩ := exec_cases h
  · exact haltKept_refl t
  · exact ⟨fun hf => by simp [hs] at hf, id⟩
  · exact ⟨fun hf => by simp [hs] at hf, commandEffect_keyed i⟩

theorem command_haltKept {v : Word} {s t : State} (h : command v s = .next t) : haltKept s t := by
  obtain ⟨-, rfl⟩ | ⟨hs, k, -, rfl⟩ | ⟨-, i, hd, -, -⟩ := command_cases h
  · exact haltKept_refl t
  · exact ⟨fun hf => by simp [hs] at hf, id⟩
  · rw [command_of_decode hd] at h
    exact exec_haltKept h

theorem step_haltKept {s t : State} (h : step s = .next t) (hreset : ∀ rest, s.pending ≠ .reset :: rest) :
    haltKept s t := by
  obtain ⟨-, rfl⟩ | ⟨rest, hp, -⟩ | ⟨rest, addr, n, -, rfl⟩ | ⟨rest, v, -, hcmd⟩ |
    ⟨rest, addr, n, v, -, -, -, -, -, -, rfl⟩ := step_cases h
  · exact haltKept_refl t
  · exact absurd hp (hreset rest)
  · exact haltKept_refl s
  · exact command_haltKept (s := s.withPending rest) hcmd
  · rw [writeBytes_eq]
    exact haltKept_refl s

/-- Settles O56: every step but reset, and every command, meets `haltKept`. -/
theorem resetAloneLeavesTheHaltedState : Obligations.ResetAloneLeavesTheHaltedState := by
  refine ⟨fun s rest hp => step_reset hp, fun s t h hf hreset => (step_haltKept h hreset).1 hf,
    fun s t h hk hreset => (step_haltKept h hreset).2 hk, fun i s t h => ?_⟩
  obtain ⟨hhalt, hkeyed⟩ := exec_haltKept h
  exact ⟨fun hf => (hhalt hf).1, hkeyed⟩

/-! ### The invariant -/

theorem stateInv_resetEngine (s : State) : StateInv (resetEngine s) := by
  simp [StateInv, instanceOk, faultOk]

/-- Settles O57: without an instance and without a fault all these registers are zero (R36). -/
theorem resetMeetsInv : Obligations.ResetMeetsInv := stateInv_resetEngine State.reset

/-- A command that needs an engine instance passes its checks with one only (R253). -/
theorem keyed_of_no_cause {i : Instr} {s : State} (hi : requiresInstance i = true) (hc : commandCause i s = none) :
    s.KEYED = true := by
  rw [commandCause_eq] at hc
  cases hk : s.KEYED with
  | true => rfl
  | false =>
    split at hc
    · simp [hi, hk] at hc
    · cases hc

theorem instanceOk_congr {s t : State} (hS : t.S = s.S) (hROUNDS : t.ROUNDS = s.ROUNDS) (hKEYED : t.KEYED = s.KEYED)
    (h : instanceOk s) : instanceOk t := by
  unfold instanceOk at h ⊢
  rwa [hS, hROUNDS, hKEYED]

/-- Counter setup keeps the constants of an engine instance (R220). -/
theorem instanceOk_counterSetup {s : State} (c : BitVec 64) (hk : s.KEYED = true) (h : instanceOk s) :
    instanceOk (s.withS (counterSetup c s.S)) := by
  have hword (k : Idx) (h12 : k ≠ 12) (h13 : k ≠ 13) : (counterSetup c s.S)[k] = s.S[k] :=
    counterSetup_other c s.S k h12 h13
  have h0 := hword 0 (by decide) (by decide)
  have h1 := hword 1 (by decide) (by decide)
  have h2 := hword 2 (by decide) (by decide)
  have h3 := hword 3 (by decide) (by decide)
  simp_all [instanceOk]

/-- The effects of the commands that pass their checks: INIT builds an instance (R113, R114), SETCTR, GEN and APPLY do
counter setup in one, and no other writes S, ROUNDS or KEYED. -/
theorem commandEffect_instanceOk {i : Instr} {s : State} (hc : commandCause i s = none) (h : instanceOk s) :
    instanceOk (commandEffect i s) := by
  cases i with
  | init r => exact ⟨rfl, rfl, rfl, rfl, requireRounds_eq_none.mp hc⟩
  | setctr | gen _ | apply _ =>
    have hinst := instanceOk_counterSetup (counterOf s) (keyed_of_no_cause rfl hc) h
    exact instanceOk_congr (by simp [commandEffect, computeBlock]) (by simp [commandEffect, computeBlock])
      (by simp [commandEffect, computeBlock]) hinst
  | nop | qr _ _ _ _ | dr | ldw | ffw | wload _ | wstore _ =>
    exact instanceOk_congr (by simp [commandEffect]) (by simp [commandEffect]) (by simp [commandEffect]) h

/-- No effect writes a fault register (R258). -/
theorem commandEffect_faultRegisters (i : Instr) (s : State) :
    (commandEffect i s).FCODE = s.FCODE ∧ (commandEffect i s).FAULT_CMD = s.FAULT_CMD := by
  cases i <;> simp [commandEffect, computeBlock]

/-- While the engine runs, the fault registers hold zeros before and after an effect. -/
theorem commandEffect_faultOk {i : Instr} {s : State} (hs : running s) (h : faultOk s) :
    faultOk (commandEffect i s) := by
  obtain ⟨hFCODE, hFAULT_CMD⟩ := commandEffect_faultRegisters i s
  obtain ⟨hcode, hcmd⟩ := faultOk_running h hs
  simp [faultOk, commandEffect_FAULTED, hs, hFCODE, hFAULT_CMD, hcode, hcmd]

/-- Taking a word's fault records the word and the code of its cause (R257). -/
theorem raiseFault_faultOk {k : FaultCode} {v : Word} {s : State}
    (hc : wordCause s.config.DEBUG_CMDS s.KEYED v = some k) : faultOk (raiseFault k v s) :=
  ⟨k, hc, rfl⟩

theorem command_keeps_stateInv {v : Word} {s t : State} (hinv : StateInv s) (h : command v s = .next t) :
    StateInv t := by
  obtain ⟨hinst, hfault⟩ := hinv
  obtain ⟨-, rfl⟩ | ⟨-, k, hc, rfl⟩ | ⟨hs, i, -, hc, rfl⟩ := command_cases h
  · exact ⟨hinst, hfault⟩
  · exact ⟨hinst, raiseFault_faultOk hc⟩
  · exact ⟨commandEffect_instanceOk hc hinst, commandEffect_faultOk hs hfault⟩

/-- Settles O58: only reset and the command words reach the registers the invariant speaks of. -/
theorem everyStepKeepsInv : Obligations.EveryStepKeepsInv := by
  intro s t hinv h
  obtain ⟨-, rfl⟩ | ⟨rest, -, rfl⟩ | ⟨rest, addr, n, -, rfl⟩ | ⟨rest, v, -, hcmd⟩ |
    ⟨rest, addr, n, v, -, -, -, -, -, -, rfl⟩ := step_cases h
  · exact hinv
  · exact stateInv_resetEngine _
  · exact hinv
  · exact command_keeps_stateInv (s := s.withPending rest) hinv hcmd
  · rw [writeBytes_eq]
    exact hinv

end Sys2Proof.Machine

/-! PROOFS. What a host can tell states apart by (10_state.md R33, R35): states that look alike through the window still look
alike after every step but GEN and APPLY, on an engine without the primitive commands; and the time of a command. -/

namespace Sys2Proof.Machine

/-! ### The host's view -/

theorem hostView_eq_iff {s s' : State} :
    hostView s = hostView s' ↔ statusWord s = statusWord s' ∧ s.FAULT_CMD = s'.FAULT_CMD ∧ s.CTRBUF = s'.CTRBUF ∧
      s.DBUF = s'.DBUF ∧ s.config = s'.config ∧ s.pending = s'.pending ∧ s.reads = s'.reads := by
  simp [hostView]

/-- STATUS tells the registers it shows, and nothing else (R33). -/
theorem statusWord_eq_iff {s s' : State} :
    statusWord s = statusWord s' ↔
      s.KEYED = s'.KEYED ∧ s.FAULTED = s'.FAULTED ∧ s.FCODE = s'.FCODE ∧ s.ROUNDS = s'.ROUNDS := by
  constructor
  · intro h
    obtain ⟨hKEYED, hFAULTED, -, hFCODE, hROUNDS, -⟩ := statusWord_fields s
    obtain ⟨hKEYED', hFAULTED', -, hFCODE', hROUNDS', -⟩ := statusWord_fields s'
    rw [h] at hKEYED hFAULTED hFCODE hROUNDS
    have ofBool_injective {a b : Bool} (hab : BitVec.ofBool a = BitVec.ofBool b) : a = b := by
      cases a <;> cases b <;> simp at hab ⊢
    exact ⟨ofBool_injective (hKEYED.symm.trans hKEYED'), ofBool_injective (hFAULTED.symm.trans hFAULTED'),
      hFCODE.symm.trans hFCODE', hROUNDS.symm.trans hROUNDS'⟩
  · rintro ⟨hKEYED, hFAULTED, hFCODE, hROUNDS⟩
    simp [statusWord, hKEYED, hFAULTED, hFCODE, hROUNDS]

/-! ### Accesses -/

section LookAlike

variable {s s' : State} (h : hostView s = hostView s')
include h

theorem readByte_of_hostView (off : Nat) : readByte s off = readByte s' off := by
  obtain ⟨hstatus, hFAULT_CMD, hCTRBUF, hDBUF, -⟩ := hostView_eq_iff.mp h
  simp only [readByte, hstatus, hFAULT_CMD, hCTRBUF, hDBUF]

/-- A read returns the same value from states that look alike. -/
theorem readBytes_of_hostView (off n : Nat) : readBytes s off n = readBytes s' off n := by
  have hsum : readSum s off n = readSum s' off n := by
    induction n with
    | zero => rfl
    | succ n ih => simp only [readSum, ih, readByte_of_hostView h]
  rw [readBytes, hsum, readBytes]

theorem hostView_withPending (p : List HostStep) : hostView (s.withPending p) = hostView (s'.withPending p) := by
  obtain ⟨hstatus, hFAULT_CMD, hCTRBUF, hDBUF, hconfig, -, hreads⟩ := hostView_eq_iff.mp h
  exact hostView_eq_iff.mpr ⟨hstatus, hFAULT_CMD, hCTRBUF, hDBUF, hconfig, rfl, hreads⟩

theorem hostView_withRead (v : Word) : hostView (s.withRead v) = hostView (s'.withRead v) := by
  obtain ⟨hstatus, hFAULT_CMD, hCTRBUF, hDBUF, hconfig, hpending, hreads⟩ := hostView_eq_iff.mp h
  exact hostView_eq_iff.mpr ⟨hstatus, hFAULT_CMD, hCTRBUF, hDBUF, hconfig, hpending, congrArg (v :: ·) hreads⟩

theorem hostView_resetEngine : hostView (resetEngine s) = hostView (resetEngine s') := by
  obtain ⟨-, -, -, -, hconfig, hpending, hreads⟩ := hostView_eq_iff.mp h
  exact hostView_eq_iff.mpr ⟨rfl, rfl, rfl, rfl, hconfig, hpending, hreads⟩

theorem hostView_writeByte (off : Nat) (b : Byte) : hostView (writeByte off b s) = hostView (writeByte off b s') := by
  obtain ⟨hstatus, hFAULT_CMD, hCTRBUF, hDBUF, hconfig, hpending, hreads⟩ := hostView_eq_iff.mp h
  unfold writeByte
  split
  case h_5 =>
    exact hostView_eq_iff.mpr
      ⟨hstatus, hFAULT_CMD, congrArg (·.setIfInBounds (off - 0x10) b) hCTRBUF, hDBUF, hconfig, hpending, hreads⟩
  case h_8 =>
    exact hostView_eq_iff.mpr
      ⟨hstatus, hFAULT_CMD, hCTRBUF, congrArg (·.setIfInBounds (off - 0x40) b) hDBUF, hconfig, hpending, hreads⟩
  -- The other rows take no byte, or are KEYBUF and NONCEBUF, which the host cannot read (R56).
  all_goals exact hostView_eq_iff.mpr ⟨hstatus, hFAULT_CMD, hCTRBUF, hDBUF, hconfig, hpending, hreads⟩

theorem hostView_writeBytes (off : Nat) (v : Word) (n : Nat) :
    hostView (writeBytes off v n s) = hostView (writeBytes off v n s') := by
  induction n with
  | zero => exact h
  | succ n ih => exact hostView_writeByte ih (off + n) (byteOf v n)

/-! ### Commands -/

theorem hostView_raiseFault (k : FaultCode) (v : Word) :
    hostView (raiseFault k v s) = hostView (raiseFault k v s') := by
  obtain ⟨hstatus, -, hCTRBUF, hDBUF, hconfig, hpending, hreads⟩ := hostView_eq_iff.mp h
  obtain ⟨hKEYED, -, -, hROUNDS⟩ := statusWord_eq_iff.mp hstatus
  exact hostView_eq_iff.mpr
    ⟨statusWord_eq_iff.mpr ⟨hKEYED, rfl, rfl, hROUNDS⟩, rfl, hCTRBUF, hDBUF, hconfig, hpending, hreads⟩

/-- The commands of an engine without the primitive ones, GEN and APPLY apart, show the host nothing of S, W, KEYBUF and
NONCEBUF: INIT shows its own operand, and SETCTR writes S alone (R35). -/
theorem hostView_commandEffect {i : Instr} (hdebug : i.isDebug = false) (hgen : ∀ l, i ≠ .gen l)
    (happly : ∀ l, i ≠ .apply l) : hostView (commandEffect i s) = hostView (commandEffect i s') := by
  obtain ⟨hstatus, hFAULT_CMD, hCTRBUF, hDBUF, hconfig, hpending, hreads⟩ := hostView_eq_iff.mp h
  obtain ⟨-, hFAULTED, hFCODE, -⟩ := statusWord_eq_iff.mp hstatus
  cases i with
  | nop => exact h
  | init r =>
    exact hostView_eq_iff.mpr
      ⟨statusWord_eq_iff.mpr ⟨rfl, hFAULTED, hFCODE, rfl⟩, hFAULT_CMD, hCTRBUF, hDBUF, hconfig, hpending, hreads⟩
  | setctr => exact hostView_eq_iff.mpr ⟨hstatus, hFAULT_CMD, hCTRBUF, hDBUF, hconfig, hpending, hreads⟩
  | gen l => exact absurd rfl (hgen l)
  | apply l => exact absurd rfl (happly l)
  | qr _ _ _ _ | dr | ldw | ffw | wload _ | wstore _ => simp [Instr.isDebug] at hdebug

/-- A command word does the same thing in states that look alike: whether it is ignored, which fault it raises and which
command it runs depend on STATUS and the parameters (R256). -/
theorem hostView_command {v : Word} {t t' : State} (hd : s.config.DEBUG_CMDS = false)
    (hv : ∀ l, decode false v ≠ .ok (.gen l) ∧ decode false v ≠ .ok (.apply l))
    (ht : command v s = .next t) (ht' : command v s' = .next t') : hostView t = hostView t' := by
  obtain ⟨hstatus, -, -, -, hconfig, -⟩ := hostView_eq_iff.mp h
  obtain ⟨hKEYED, hFAULTED, -, -⟩ := statusWord_eq_iff.mp hstatus
  obtain ⟨hf, rfl⟩ | ⟨hs, k, hc, rfl⟩ | ⟨hs, i, hdec, hc, rfl⟩ := command_cases ht
  · rw [command_halted (hFAULTED.symm.trans hf)] at ht'
    cases ht'
    exact h
  · rw [command_fault k (hFAULTED.symm.trans hs) (by rwa [← hconfig, ← hKEYED])] at ht'
    cases ht'
    exact hostView_raiseFault h k v
  · have hcause : commandCause i s' = none := by rwa [commandCause_eq, ← hconfig, ← hKEYED, ← commandCause_eq]
    rw [command_of_decode (by rwa [← hconfig]), exec_effect (hFAULTED.symm.trans hs) hcause] at ht'
    cases ht'
    rw [hd] at hdec
    have hdebug : i.isDebug = false := by simpa [WellFormed] using wellFormed_of_decode hdec
    refine hostView_commandEffect h hdebug ?_ ?_
    · rintro l rfl
      exact (hv l).1 hdec
    · rintro l rfl
      exact (hv l).2 hdec

end LookAlike

/-- Settles O59: the two states have the same host step next, and every part of it keeps what the host can see alike. -/
theorem secretsLeaveThroughBlocksOnly : Obligations.SecretsLeaveThroughBlocksOnly := by
  intro s s' t t' h hd hv ht ht'
  obtain ⟨-, -, -, -, hconfig, hpending, -⟩ := hostView_eq_iff.mp h
  cases hp : s.pending with
  | nil =>
    rw [step_idle hp] at ht
    rw [step_idle (hpending.symm.trans hp)] at ht'
    cases ht
    cases ht'
    exact h
  | cons a rest =>
    have hp' : s'.pending = a :: rest := hpending.symm.trans hp
    have hrest := hostView_withPending h rest
    cases a with
    | read addr n =>
      rw [step_read_next ht hp, step_read_next ht' hp', readBytes_of_hostView h, hconfig]
      exact hostView_withRead hrest _
    | write addr n v =>
      obtain ⟨rfl, rfl, hcmd⟩ | ⟨hn, rfl⟩ := step_write_next ht hp
      · obtain ⟨-, -, hcmd'⟩ | ⟨hn, -⟩ := step_write_next ht' hp'
        · exact hostView_command hrest hd (fun l => hv v rest l hp) hcmd hcmd'
        · simp [hconfig] at hn
      · obtain ⟨haddr, hwidth, -⟩ | ⟨-, rfl⟩ := step_write_next ht' hp'
        · exact absurd ⟨haddr.trans (by rw [hconfig]), hwidth⟩ hn
        · rw [hconfig]
          exact hostView_writeBytes hrest _ v n
    | reset =>
      rw [step_reset hp] at ht
      rw [step_reset hp'] at ht'
      cases ht
      cases ht'
      exact hostView_resetEngine hrest

/-! ### The time of a command -/

/-- A command word leaves the engine halted if it was halted or the word has a cause (R256, R259). -/
theorem endsHalted_command (v : Word) (s : State) :
    endsHalted (command v s) = (s.FAULTED || (wordCause s.config.DEBUG_CMDS s.KEYED v).isSome) := by
  cases hf : s.FAULTED with
  | true => simp [command_halted hf, endsHalted, hf]
  | false =>
    cases hc : wordCause s.config.DEBUG_CMDS s.KEYED v with
    | some k => simp [command_fault k hf hc, endsHalted, Claims.halted]
    | none =>
      obtain ⟨t, ht, htf⟩ := command_completes hf hc
      simp [ht, endsHalted, htf]

theorem busCycles_eq (v : Word) (s : State) :
    busCycles v s =
      if s.FAULTED || (wordCause s.config.DEBUG_CMDS s.KEYED v).isSome then
        Config.faultCyclesLessOne v s.ROUNDS s.KEYED s.FAULTED + 1
      else Config.cmdCyclesLessOne v s.ROUNDS + 1 := by
  rw [busCycles, endsHalted_command]

/-- Settles O60: whether a command ends halted depends on FAULTED, KEYED, DEBUG_CMDS and the word alone. -/
theorem commandTimeIsDataIndependent : Obligations.CommandTimeIsDataIndependent := by
  refine ⟨fun v s s' hdebug hROUNDS hKEYED hFAULTED => ?_, fun v s => ?_, fun v s hs hc => ?_⟩
  · rw [busCycles_eq, busCycles_eq, hdebug, hROUNDS, hKEYED, hFAULTED]
  · rw [busCycles_eq]
    split <;> exact Nat.succ_pos _
  · rw [busCycles_eq, hs, hc]
    rfl

end Sys2Proof.Machine

/-! PROOFS. The block function's commands one by one, and the laws they obey together (42_double_round.md R153,
43_block_generator.md R174 to R180, 44_counter_setter.md R221). -/

namespace Sys2Proof.Machine

open Sys2Proof.Claims

/-! ### What each command answers when it completes -/

theorem exec_setctr {s : State} (hs : keyedUp s) :
    exec .setctr s = .next { s with S := counterSetup (counterOf s) s.S } :=
  exec_effect hs.1 (if_pos hs.2)

/-- APPLY 64 answers what GEN 64 answers, with the block XORed into DBUF (R174). -/
theorem exec_apply {s : State} (hs : keyedUp s) :
    exec (.apply 64) s = .next { s with
      S := counterSetup (counterOf s) s.S
      W := outputWords (counterSetup (counterOf s) s.S) s.ROUNDS
      DBUF := xorBytes s.DBUF (serialize (outputWords (counterSetup (counterOf s) s.S) s.ROUNDS)) } :=
  exec_effect hs.1 (keyed_length_no_cause hs.2)

/-- LDW and FFW pass their checks on an engine that decodes them and has an instance (R90, R253). -/
theorem debug_keyed_no_cause {s : State} (hs : debugUp s) (hk : s.KEYED = true) :
    (requireDebug s <|> requireKeyed s) = none :=
  (Option.orElse_eq_none _ _).mpr ⟨if_pos hs.2, if_pos hk⟩

theorem exec_ldw {s : State} (hs : debugUp s) (hk : s.KEYED = true) : exec .ldw s = .next { s with W := s.S } :=
  exec_effect hs.1 (debug_keyed_no_cause hs hk)

theorem exec_ffw {s : State} (hs : debugUp s) (hk : s.KEYED = true) :
    exec .ffw s = .next { s with W := feedForward s.S s.W } :=
  exec_effect hs.1 (debug_keyed_no_cause hs hk)

/-- WLOAD and WSTORE pass their checks on an engine that decodes them when LEN is 64 (R90, R255). -/
theorem debug_length_no_cause {s : State} (hs : debugUp s) : (requireDebug s <|> requireLength 64) = none :=
  (Option.orElse_eq_none _ _).mpr ⟨if_pos hs.2, requireLength_eq_none.mpr rfl⟩

theorem exec_wload {s : State} (hs : debugUp s) : exec (.wload 64) s = .next { s with W := deserialize s.DBUF } :=
  exec_effect hs.1 (debug_length_no_cause hs)

theorem exec_wstore {s : State} (hs : debugUp s) : exec (.wstore 64) s = .next { s with DBUF := serialize s.W } :=
  exec_effect hs.1 (debug_length_no_cause hs)

/-- Settles O18: SETCTR is counter setup on S. -/
theorem setctrLoadsTheCounter : Obligations.SetctrLoadsTheCounter := by
  intro s hs
  exact ⟨_, exec_setctr hs, counterSetup_holdsCounter s s.S, counterSetup_other (counterOf s) s.S⟩

/-- Settles O20: the two commands compute one block from one state. -/
theorem applyXorsTheKeystreamBlock : Obligations.ApplyXorsTheKeystreamBlock := by
  intro s hs
  exact ⟨_, _, exec_gen hs, exec_apply hs, xorBytes_get s.DBUF _⟩

/-- Settles O27: LDW does no counter setup. -/
theorem ldwCopiesTheStoredState : Obligations.LdwCopiesTheStoredState := fun _ hs hk => exec_ldw hs hk

/-- Settles O28: the addition of words wraps (R8). -/
theorem ffwAddsTheStoredState : Obligations.FfwAddsTheStoredState := by
  intro s hs hk
  refine ⟨_, exec_ffw hs hk, fun i => ?_⟩
  rw [feedForward_get, BitVec.toNat_add]

/-- Settles O29: a word of the deserialization is the number of its four bytes. -/
theorem wloadPacksTheBuffer : Obligations.WloadPacksTheBuffer := by
  intro s hs
  refine ⟨_, exec_wload hs, fun i => ?_⟩
  rw [deserialize_get, le32at_toNat _ _ (by omega), fourBytes]

/-- Settles O30: byte 4i + j of the serialization is byte j of word i. -/
theorem wstoreSerializesTheWords : Obligations.WstoreSerializesTheWords := by
  intro s hs
  refine ⟨_, exec_wstore hs, fun i j => ?_⟩
  rw [serialize_byte, byteOf_toNat]

/-! ### Serialization and its inverse (R172) -/

theorem deserialize_serialize (W : Block) : deserialize (serialize W) = W := by
  ext i hi : 1
  have hbyte (j : Fin 4) : byteAt (serialize W) (4 * i + j.val) = byteOf W[i] j.val := by
    rw [byteAt_eq _ _ (by omega)]
    exact serialize_byte W ⟨i, hi⟩ j
  have hword : (deserialize (serialize W))[i] = le32at (serialize W) (4 * i) := deserialize_get _ ⟨i, hi⟩
  have h0 : byteAt (serialize W) (4 * i) = byteOf W[i] 0 := hbyte 0
  have h1 : byteAt (serialize W) (4 * i + 1) = byteOf W[i] 1 := hbyte 1
  have h2 : byteAt (serialize W) (4 * i + 2) = byteOf W[i] 2 := hbyte 2
  have h3 : byteAt (serialize W) (4 * i + 3) = byteOf W[i] 3 := hbyte 3
  rw [hword, le32at, h0, h1, h2, h3, le32_bytes]

/-- Byte j of a packed word is the j-th byte after its first (R9). -/
theorem byteOf_le32at {n : Nat} (B : Vector Byte n) (i : Nat) {j : Nat} (hj : j < 4) :
    byteOf (le32at B i) j = byteAt B (i + j) := by
  obtain ⟨h0, h1, h2, h3⟩ := byteOf_le32 (byteAt B i) (byteAt B (i + 1)) (byteAt B (i + 2)) (byteAt B (i + 3))
  interval_cases j
  · exact h0
  · exact h1
  · exact h2
  · exact h3

theorem serialize_deserialize (B : Vector Byte 64) : serialize (deserialize B) = B := by
  ext k hk : 1
  have hword : (deserialize B)[k / 4] = le32at B (4 * (k / 4)) := deserialize_get B ⟨k / 4, by omega⟩
  have hbyte : (serialize (deserialize B))[k] = byteOf (deserialize B)[k / 4] (k % 4) :=
    serialize_get (deserialize B) ⟨k, hk⟩
  rw [hbyte, hword, byteOf_le32at _ _ (by omega), Nat.div_add_mod, byteAt_eq B k hk]

/-- Settles O31: each of the two commands finds what the other left. -/
theorem serializationIsInvertible : Obligations.SerializationIsInvertible := by
  intro s hs
  refine ⟨⟨deserialize s.DBUF, ?_⟩, ⟨serialize s.W, ?_⟩⟩
  · rw [execSeq_cons (exec_wload hs), execSeq_cons (exec_wstore (s := { s with W := deserialize s.DBUF }) hs),
      serialize_deserialize]
    rfl
  · rw [execSeq_cons (exec_wstore hs), execSeq_cons (exec_wload (s := { s with DBUF := serialize s.W }) hs),
      deserialize_serialize]
    rfl

/-! ### The laws of R179 -/

theorem block_ext {X Y : Block} (h : ∀ i : Idx, X[i] = Y[i]) : X = Y := Vector.ext fun i hi => h ⟨i, hi⟩

/-- Counter setup with the same counter again changes nothing. -/
theorem counterSetup_counterSetup (c : BitVec 64) (X : Block) :
    counterSetup c (counterSetup c X) = counterSetup c X := by
  refine block_ext fun i => ?_
  rw [counterSetup_get, counterSetup_get]
  split_ifs <;> rfl

/-- The exclusive or with a block is undone by a second one. -/
theorem xorBytes_xorBytes (B K : Vector Byte 64) : xorBytes (xorBytes B K) K = B := by
  ext k hk : 1
  simp [xorBytes]

theorem xorBytes_zero (K : Vector Byte 64) : xorBytes (Vector.replicate 64 0) K = K := by
  ext k hk : 1
  simp [xorBytes]

/-- Settles O32: the second APPLY computes the block of the first, since S and CTRBUF give the same snapshot. -/
theorem applyTwiceRestoresTheBuffer : Obligations.ApplyTwiceRestoresTheBuffer := by
  intro s hs
  refine ⟨_, exec_apply hs, ?_⟩
  rw [execSeq_cons (exec_apply hs), execSeq_cons (exec_apply ?keyed)]
  case keyed => exact hs
  simp only [counterOf, counterSetup_counterSetup, xorBytes_xorBytes]
  rfl

/-- Settles O33: the exclusive or with zeros is the block itself. -/
theorem applyOnZeroBufferIsGen : Obligations.ApplyOnZeroBufferIsGen := by
  intro s hs hzero
  rw [exec_apply hs, exec_gen hs, hzero, xorBytes_zero]

/-- Settles O26: each DR applies the double round once to the W the ones before it left. -/
theorem repeatedDrIteratesTheDoubleRound : Obligations.RepeatedDrIteratesTheDoubleRound := by
  intro n
  induction n with
  | zero => intro s _; rfl
  | succ n ih =>
    intro s hs
    rw [List.replicate_succ, execSeq_cons (exec_dr hs), ih { s with W := doubleRound s.W } hs,
      Function.iterate_succ_apply]

/-- Settles O34: each command of the sequence does one step of GEN, on the state the ones before it left. -/
theorem primitivesComposeToGen : Obligations.PrimitivesComposeToGen := by
  intro s hs hd
  let S := counterSetup (counterOf s) s.S
  let P := doubleRound^[s.ROUNDS.toNat / 2] S
  have prepare : execSeq [.setctr, .ldw] s = .next { s with S := S, W := S } := by
    rw [execSeq_cons (exec_setctr hs), execSeq_cons (exec_ldw (s := { s with S := S }) hd hs.2)]
    rfl
  have rounds : execSeq ([.setctr, .ldw] ++ List.replicate (s.ROUNDS.toNat / 2) .dr) s =
      .next { s with S := S, W := P } := by
    rw [execSeq_append prepare]
    exact repeatedDrIteratesTheDoubleRound _ { s with S := S, W := S } hd
  have output : outputWords S s.ROUNDS = feedForward S P := by
    rw [outputWords, permute, doubleRounds_eq_iterate]
  refine ⟨_, exec_gen hs, ?_⟩
  rw [execSeq_append rounds, execSeq_cons (exec_ffw (s := { s with S := S, W := P }) hd hs.2),
    execSeq_cons (exec_wstore (s := { s with S := S, W := feedForward S P }) hd), output]
  rfl

/-- The pre-round snapshot depends on the counter and on the other words of S (R179). -/
theorem counterSetup_congr {c : BitVec 64} {X Y : Block} (h : ∀ i : Idx, i ≠ 12 → i ≠ 13 → X[i] = Y[i]) :
    counterSetup c X = counterSetup c Y := by
  refine block_ext fun i => ?_
  rw [counterSetup_get, counterSetup_get]
  split_ifs with h12 h13
  · rfl
  · rfl
  · exact h i h12 h13

/-- Settles O35: the snapshots are equal, and the rest of the block follows from the snapshot and ROUNDS. -/
theorem genDependsOnInstanceAndCounterOnly : Obligations.GenDependsOnInstanceAndCounterOnly := by
  intro s s' hs hs' hS hCTRBUF hROUNDS
  have hsnapshot : counterSetup (counterOf s) s.S = counterSetup (counterOf s') s'.S := by
    rw [counterOf, hCTRBUF, ← counterOf, counterSetup_congr hS]
  refine ⟨_, _, exec_gen hs, exec_gen hs', ?_, ?_, hsnapshot⟩
  · simp only [hsnapshot, hROUNDS]
  · simp only [hsnapshot, hROUNDS]

/-- A counter is its two words. -/
theorem counter_eq_of_halves {c c' : BitVec 64} (hlow : counterLow c = counterLow c')
    (hhigh : counterHigh c = counterHigh c') : c = c' := by
  apply BitVec.eq_of_toNat_eq
  rw [← counter_halves c, ← counter_halves c', hlow, hhigh]

/-- A CTRBUF of another content is another counter (R29). -/
theorem le64_injective : Function.Injective fun B : Vector Byte 8 => le64 B 0 := by
  intro B C h
  have hnum : (le64 B 0).toNat = (le64 C 0).toNat := congrArg BitVec.toNat h
  rw [le64_toNat, le64_toNat, Nat.zero_add] at hnum
  have hB := (le32at B 0).isLt
  have hC := (le32at C 0).isLt
  have hword (m : Nat) (hm : m < 2) : le32at B (4 * m) = le32at C (4 * m) := by
    have h0 : le32at B 0 = le32at C 0 := BitVec.eq_of_toNat_eq (by omega)
    have h4 : le32at B 4 = le32at C 4 := BitVec.eq_of_toNat_eq (by omega)
    interval_cases m
    · exact h0
    · exact h4
  ext k hk : 1
  have hbyte (D : Vector Byte 8) : D[k] = byteOf (le32at D (4 * (k / 4))) (k % 4) := by
    rw [byteOf_le32at _ _ (by omega), Nat.div_add_mod, byteAt_eq D k hk]
  rw [hbyte B, hbyte C, hword _ (by omega)]

/-- Settles O36: the counter setups write words 12 and 13 alone, and equal words there would be one counter. -/
theorem counterReachesTwoWordsOnly : Obligations.CounterReachesTwoWordsOnly := by
  intro s C hs
  refine ⟨_, _, exec_gen hs, exec_gen (s := { s with CTRBUF := C }) hs, fun i h12 h13 => ?_, fun hne => ?_⟩
  · exact (counterSetup_other _ s.S i h12 h13).trans (counterSetup_other _ s.S i h12 h13).symm
  · have low (c : BitVec 64) : (counterSetup c s.S)[12] = counterLow c := counterSetup_get c s.S 12
    have high (c : BitVec 64) : (counterSetup c s.S)[13] = counterHigh c := counterSetup_get c s.S 13
    by_contra hsame
    simp only [low, high, ne_eq, not_or, not_not] at hsame
    obtain ⟨hlow, hhigh⟩ := hsame
    exact hne (le64_injective (counter_eq_of_halves hlow hhigh)).symm

/-! ### Frames of the commands that complete -/

/-- A command that raises no fault leaves what it found (halted) or has its effect. -/
theorem exec_unfaulted {i : Instr} {s t : State} (h : exec i s = .next t) (hf : t.FAULTED = s.FAULTED) :
    t = s ∨ t = commandEffect i s := by
  obtain ⟨-, ht⟩ | ⟨hs, k, -, rfl⟩ | ⟨-, -, ht⟩ := exec_cases h
  · exact .inl ht
  · simp [hs] at hf
  · exact .inr ht

/-- The window shows no byte of W (R35). -/
theorem windowSame_withW (s : State) (X : Block) : windowSame 0 0 s (s.withW X) := fun _ _ _ => rfl

/-- The window shows no byte of S (R35). -/
theorem windowSame_withS (s : State) (X : Block) : windowSame 0 0 s (s.withS X) := fun _ _ _ => rfl

theorem windowSame_withDBUF (s : State) (B : Vector Byte 64) : windowSame 0x40 0x80 s (s.withDBUF B) := by
  intro off _ hout
  obtain ⟨-, -, -, -, -, hdbuf⟩ := portAt_rows off
  cases hport : portAt off
  case dbuf => exact absurd (hdbuf.mp hport) hout
  all_goals simp [readByte, hport, statusWord]

theorem windowSame_withInstance (s : State) (X : Block) (r : BitVec 5) :
    windowSame 0x04 0x08 s (s.withInstance X r) := by
  intro off _ hout
  obtain ⟨hstatus, -⟩ := portAt_rows off
  cases hport : portAt off
  case status => exact absurd (hstatus.mp hport) hout
  all_goals simp [readByte, hport]

/-- Settles O37: each of the five effects writes W alone, which no offset of the window shows. -/
theorem workingStateCommandsChangeOnlyW : Obligations.WorkingStateCommandsChangeOnlyW := by
  intro i s t hi h hf
  obtain ⟨X, rfl⟩ : ∃ X, t = s.withW X := by
    obtain rfl | rfl := exec_unfaulted h hf
    · exact ⟨t.W, rfl⟩
    · obtain ⟨a, b, c, d, rfl⟩ | rfl | rfl | rfl | ⟨l, rfl⟩ := hi <;> exact ⟨_, rfl⟩
  exact ⟨rfl, windowSame_withW s X⟩

/-- What GEN and APPLY leave but for DBUF: counter setup in S, and some W (R173, R174). -/
theorem commandEffect_block {i : Instr} (hi : ∃ l, i = .gen l ∨ i = .apply l) (s : State) :
    ∃ Y D, commandEffect i s = ((s.withS (counterSetup (counterOf s) s.S)).withW Y).withDBUF D := by
  obtain ⟨l, rfl | rfl⟩ := hi <;> exact ⟨_, _, rfl⟩

/-- Settles O38: GEN and APPLY write S by counter setup, and of the fields they write only DBUF shows in the window. -/
theorem bufferCommandsChangeOnlyTheBlock : Obligations.BufferCommandsChangeOnlyTheBlock := by
  intro i s t hi h hf
  obtain rfl | rfl := exec_unfaulted h hf
  · exact ⟨rfl, fun _ _ _ => rfl, fun _ => ⟨rfl, rfl⟩, fun _ _ _ => rfl⟩
  · obtain hblock | ⟨l, rfl⟩ := hi
    · obtain ⟨Y, D, heffect⟩ := commandEffect_block hblock s
      rw [heffect]
      refine ⟨rfl, counterSetup_other (counterOf s) s.S, ?_, windowSame_withDBUF _ D⟩
      rintro ⟨l, rfl⟩
      simp at hblock
    · obtain ⟨D, heffect⟩ : ∃ D, commandEffect (.wstore l) s = s.withDBUF D := ⟨serialize s.W, rfl⟩
      rw [heffect]
      exact ⟨rfl, fun _ _ _ => rfl, fun _ => ⟨rfl, rfl⟩, windowSame_withDBUF s D⟩

/-- Settles O39: SETCTR is counter setup on S, which the window does not show; of what INIT writes it shows STATUS. -/
theorem instanceCommandsChangeOnlyTheInstance : Obligations.InstanceCommandsChangeOnlyTheInstance := by
  refine fun s t hf => ⟨fun h => ?_, fun r h => ?_⟩
  · obtain rfl | rfl := exec_unfaulted h hf
    · exact ⟨rfl, fun _ _ _ => rfl, fun _ _ _ => rfl⟩
    · exact ⟨rfl, counterSetup_other (counterOf s) s.S, windowSame_withS s _⟩
  · obtain rfl | rfl := exec_unfaulted h hf
    · exact ⟨rfl, fun _ _ _ => rfl⟩
    · exact ⟨rfl, windowSame_withInstance s _ r⟩

end Sys2Proof.Machine

/-! PROOFS. The quarter round reads and writes the words of its indices alone: its values for equal indices (41_quarter_round.md
R133), and the order of the quarter rounds of a pass (42_double_round.md R155). -/

namespace Sys2Proof.Machine

open Sys2Proof.Claims

/-! ### The words a quarter round reads -/

/-- The blocks agree on the words at these indices. -/
def AgreeOn (l : List Idx) (X Y : Block) : Prop := ∀ i ∈ l, X[i] = Y[i]

theorem addXorRotl_agreeOn {l : List Idx} {a b d : Idx} (ha : a ∈ l) (hb : b ∈ l) (hd : d ∈ l) (n : Nat)
    {X Y : Block} (h : AgreeOn l X Y) : AgreeOn l (addXorRotl a b d n X) (addXorRotl a b d n Y) := by
  have hadd : AgreeOn l (addInto a b X) (addInto a b Y) := fun i hi => by
    rw [addInto_get, addInto_get, h a ha, h b hb, h i hi]
  have hxor : AgreeOn l (xorInto d a (addInto a b X)) (xorInto d a (addInto a b Y)) := fun i hi => by
    rw [xorInto_get, xorInto_get, hadd d hd, hadd a ha, hadd i hi]
  intro i hi
  rw [addXorRotl, addXorRotl, rotlInto_get, rotlInto_get, hxor d hd, hxor i hi]

/-- The words a quarter round leaves at its indices depend on the words there alone (R130). -/
theorem quarterRound_agreeOn (a b c d : Idx) {X Y : Block} (h : AgreeOn [a, b, c, d] X Y) :
    AgreeOn [a, b, c, d] (quarterRound a b c d X) (quarterRound a b c d Y) := by
  have ha : a ∈ [a, b, c, d] := by simp
  have hb : b ∈ [a, b, c, d] := by simp
  have hc : c ∈ [a, b, c, d] := by simp
  have hd : d ∈ [a, b, c, d] := by simp
  exact addXorRotl_agreeOn hc hd hb 7 (addXorRotl_agreeOn ha hb hd 8
    (addXorRotl_agreeOn hc hd hb 12 (addXorRotl_agreeOn ha hb hd 16 h)))

/-! ### Equal indices (R133) -/

/-- With equal indices the exclusive or clears the word, and the rotation leaves it clear. -/
theorem addXorRotl_equal_indices (a : Idx) (n : Nat) (X : Block) : (addXorRotl a a a n X)[a] = 0 := by
  rw [addXorRotl, rotlInto_get, if_pos rfl, xorInto_get, if_pos rfl, BitVec.xor_self]
  simp [rotl]

/-- Settles O22: the words at the indices are known, so the quarter round of a block that has them there gives the values. -/
theorem qrWithEqualIndices : Obligations.QrWithEqualIndices := by
  intro s hs
  refine ⟨⟨_, exec_qr 0 0 0 0 hs, addXorRotl_equal_indices 0 7 _⟩, fun h0 h1 => ?_, fun hW => ?_⟩
  · let Y : Block := #v[3, 5, 0, 0, 0, 0, 0, 0, 0, 0, 0, 0, 0, 0, 0, 0]
    have hwords : AgreeOn [0, 1, 0, 1] s.W Y := by simp [AgreeOn, Y, h0, h1]
    have hqr := quarterRound_agreeOn 0 1 0 1 hwords
    refine ⟨_, exec_qr 0 1 0 1 hs, (hqr 0 (by simp)).trans ?_, (hqr 1 (by simp)).trans ?_⟩
    · decide
    · decide
  · let Y : Block := #v[0, 0, 0, 0, 0, 5, 6, 7, 0, 0, 0, 0, 0, 0, 0, 0]
    have hwords : AgreeOn [5, 5, 6, 7] s.W Y := by
      have h5 := hW 5
      have h6 := hW 6
      have h7 := hW 7
      simp_all [AgreeOn, Y]
    have hqr := quarterRound_agreeOn 5 5 6 7 hwords
    refine ⟨_, exec_qr 5 5 6 7 hs, (hqr 5 (by simp)).trans ?_, (hqr 6 (by simp)).trans ?_, (hqr 7 (by simp)).trans ?_⟩
    · decide
    · decide
    · decide

/-! ### Quarter rounds that share no index -/

theorem quarterRound_not_mem {a b c d i : Idx} (h : i ∉ [a, b, c, d]) (X : Block) :
    (quarterRound a b c d X)[i] = X[i] := by
  simp only [List.mem_cons, List.not_mem_nil, or_false, not_or] at h
  obtain ⟨ha, hb, hc, hd⟩ := h
  exact quarterRound_other a b c d i X ha hb hc hd

/-- Quarter rounds that share no index commute: each leaves the words the other reads (R155). -/
theorem quarterRound_comm {a b c d a' b' c' d' : Idx} (h : ∀ i ∈ [a, b, c, d], i ∉ [a', b', c', d']) (X : Block) :
    quarterRound a b c d (quarterRound a' b' c' d' X) = quarterRound a' b' c' d' (quarterRound a b c d X) := by
  have hkeep : AgreeOn [a, b, c, d] (quarterRound a' b' c' d' X) X := fun i hi => quarterRound_not_mem (h i hi) X
  have hkeep' : AgreeOn [a', b', c', d'] (quarterRound a b c d X) X := fun i hi =>
    quarterRound_not_mem (fun hi' => h i hi' hi) X
  refine block_ext fun k => ?_
  by_cases hk : k ∈ [a, b, c, d]
  · rw [quarterRound_agreeOn a b c d hkeep k hk, quarterRound_not_mem (h k hk)]
  · rw [quarterRound_not_mem hk]
    by_cases hk' : k ∈ [a', b', c', d']
    · rw [quarterRound_agreeOn a' b' c' d' hkeep' k hk']
    · rw [quarterRound_not_mem hk', quarterRound_not_mem hk', quarterRound_not_mem hk]

/-! ### The quarter rounds of a pass in any order -/

/-- The indices of a QR command; other commands have none. -/
def quarterIndices : Instr → List Idx
  | .qr a b c d => [a, b, c, d]
  | _ => []

/-- The effects of the two commands may be exchanged. -/
def EffectsCommute (i j : Instr) : Prop :=
  ∀ s : State, commandEffect i (commandEffect j s) = commandEffect j (commandEffect i s)

theorem effectsCommute_symm : Std.Symm EffectsCommute := ⟨fun _ _ h s => (h s).symm⟩

theorem effectsCommute_qr {a b c d a' b' c' d' : Idx}
    (h : ∀ k ∈ quarterIndices (.qr a b c d), k ∉ quarterIndices (.qr a' b' c' d')) :
    EffectsCommute (.qr a b c d) (.qr a' b' c' d') :=
  fun s => congrArg s.withW (quarterRound_comm h s.W)

/-- QR commands of a running engine that decodes them have their effects one after the other. -/
theorem execSeq_qrs {l : List Instr} (hl : ∀ i ∈ l, ∃ a b c d, i = .qr a b c d) {s : State} (hs : debugUp s) :
    execSeq l s = .next (l.foldl (fun t i => commandEffect i t) s) := by
  induction l generalizing s with
  | nil => rfl
  | cons i is ih =>
    obtain ⟨a, b, c, d, rfl⟩ := hl i List.mem_cons_self
    have htail : ∀ i ∈ is, ∃ a b c d, i = .qr a b c d := fun i hi => hl i (List.mem_cons_of_mem _ hi)
    rw [execSeq_cons (exec_qr a b c d hs), List.foldl_cons]
    exact ih htail (s := { s with W := quarterRound a b c d s.W }) hs

/-- QR commands that share no index lead to the same state in every order. -/
theorem execSeq_perm {l l' : List Instr} (hl : ∀ i ∈ l, ∃ a b c d, i = .qr a b c d)
    (hdisjoint : l.Pairwise fun i j => ∀ k ∈ quarterIndices i, k ∉ quarterIndices j) (hp : l'.Perm l) {s : State}
    (hs : debugUp s) : execSeq l' s = execSeq l s := by
  have hpairs : l.Pairwise EffectsCommute := hdisjoint.imp_of_mem fun {i j} hi hj hij => by
    obtain ⟨a, b, c, d, rfl⟩ := hl i hi
    obtain ⟨a', b', c', d', rfl⟩ := hl j hj
    exact effectsCommute_qr hij
  have hsymm := effectsCommute_symm
  have hcommute : ∀ i ∈ l, ∀ j ∈ l, EffectsCommute i j := fun i hi j hj =>
    hpairs.forall_of_forall (fun _ _ _ => rfl) hi hj
  rw [execSeq_qrs hl hs, execSeq_qrs (fun i hi => hl i (hp.mem_iff.mp hi)) hs]
  exact congrArg _ (hp.symm.foldl_eq' (fun i hi j hj t => hcommute j hj i hi t) s).symm

theorem columnRounds_are_qrs : ∀ i ∈ columnRounds, ∃ a b c d, i = .qr a b c d := by
  simp [columnRounds]

theorem diagonalRounds_are_qrs : ∀ i ∈ diagonalRounds, ∃ a b c d, i = .qr a b c d := by
  simp [diagonalRounds]

/-- A block on which the two orders of the passes differ, in word 1. -/
def firstWordOne : Block := #v[1, 0, 0, 0, 0, 0, 0, 0, 0, 0, 0, 0, 0, 0, 0, 0]

theorem passes_do_not_commute :
    (diagonalPass (columnPass firstWordOne))[1] ≠ (columnPass (diagonalPass firstWordOne))[1] := by
  decide

/-- Settles O25: the quarter rounds of a pass share no index; the passes in the two orders are compared on one block. -/
theorem quarterRoundsOfAPassCommute : Obligations.QuarterRoundsOfAPassCommute := by
  refine ⟨fun s l hs hp => execSeq_perm columnRounds_are_qrs (by decide) hp hs,
    fun s l hs hp => execSeq_perm diagonalRounds_are_qrs (by decide) hp hs, by decide, ?_⟩
  have hs : debugUp { State.reset with W := firstWordOne } := ⟨rfl, rfl⟩
  refine ⟨_, hs, fun h => passes_do_not_commute ?_⟩
  rw [execSeq_append (execSeq_columnRounds hs firstWordOne), execSeq_append (execSeq_diagonalRounds hs firstWordOne),
    execSeq_diagonalRounds hs (columnPass firstWordOne), execSeq_columnRounds hs (diagonalPass firstWordOne)] at h
  exact congrArg (fun t : State => t.W[1]) (Host.Outcome.next.inj h)

end Sys2Proof.Machine

/-! PROOFS. The register window byte by byte (20_memory.md R51), the accesses that are taken (R54, R69), and wide accesses as
byte accesses (R53). -/

namespace Sys2Proof.Machine

open Sys2Proof.Claims

/-! ### The bytes of CTRBUF and DBUF -/

theorem readByte_ctrbuf (s : State) (k : Fin 8) : readByte s (0x10 + k.val) = s.CTRBUF[k] := by
  have hport : portAt (0x10 + k.val) = .ctrbuf := (portAt_rows _).2.2.1.mpr ⟨by omega, by omega⟩
  simp [readByte, hport, byteAt_eq]

theorem readByte_dbuf (s : State) (k : Fin 64) : readByte s (0x40 + k.val) = s.DBUF[k] := by
  have hport : portAt (0x40 + k.val) = .dbuf := (portAt_rows _).2.2.2.2.2.mpr ⟨by omega, by omega⟩
  simp [readByte, hport, byteAt_eq]

theorem writeByte_ctrbuf (s : State) (k : Fin 8) (b : Byte) :
    writeByte (0x10 + k.val) b s = { s with CTRBUF := s.CTRBUF.set k b } := by
  have hport : portAt (0x10 + k.val) = .ctrbuf := (portAt_rows _).2.2.1.mpr ⟨by omega, by omega⟩
  simp [writeByte, hport, setIfInBounds_eq_set]

theorem writeByte_noncebuf (s : State) (k : Fin 8) (b : Byte) :
    writeByte (0x18 + k.val) b s = { s with NONCEBUF := s.NONCEBUF.set k b } := by
  have hport : portAt (0x18 + k.val) = .noncebuf := (portAt_rows _).2.2.2.1.mpr ⟨by omega, by omega⟩
  simp [writeByte, hport, setIfInBounds_eq_set]

theorem writeByte_keybuf (s : State) (k : Fin 32) (b : Byte) :
    writeByte (0x20 + k.val) b s = { s with KEYBUF := s.KEYBUF.set k b } := by
  have hport : portAt (0x20 + k.val) = .keybuf := (portAt_rows _).2.2.2.2.1.mpr ⟨by omega, by omega⟩
  simp [writeByte, hport, setIfInBounds_eq_set]

theorem writeByte_dbuf (s : State) (k : Fin 64) (b : Byte) :
    writeByte (0x40 + k.val) b s = { s with DBUF := s.DBUF.set k b } := by
  have hport : portAt (0x40 + k.val) = .dbuf := (portAt_rows _).2.2.2.2.2.mpr ⟨by omega, by omega⟩
  simp [writeByte, hport, setIfInBounds_eq_set]

/-! ### Accesses of one byte -/

/-- A one-byte read returns the byte of the register map. -/
theorem readBytes_one (s : State) (off : Nat) : readBytes s off 1 = (readByte s off).setWidth 32 := by
  apply BitVec.eq_of_toNat_eq
  simp [readBytes, readSum]

/-- A one-byte write stores the low byte of the value. -/
theorem writeBytes_one (off : Nat) (v : Word) (s : State) : writeBytes off v 1 s = writeByte off (v.setWidth 8) s := by
  have hb : byteOf v 0 = v.setWidth 8 := by
    apply BitVec.eq_of_toNat_eq
    simp [byteOf_toNat]
  rw [writeBytes, writeBytes, hb, Nat.add_zero]

theorem step_read_one {s : State} {off : Nat} {rest : List HostStep} (h : off < 256)
    (hp : s.pending = .read (s.config.ENGINE_BASE + off) 1 :: rest) :
    step s = .next ((s.withPending rest).withRead ((readByte s off).setWidth 32)) := by
  obtain ⟨hlo, hhi, hn, ha⟩ := inContract_offset s.config h (.inl rfl) (Nat.mod_one off)
  rw [step_readAccess hlo hhi hn ha hp, Nat.add_sub_cancel_left, readBytes_one]

theorem step_write_one {s : State} {off : Nat} {v : Word} {rest : List HostStep} (h : off < 256)
    (hp : s.pending = .write (s.config.ENGINE_BASE + off) 1 v :: rest) :
    step s = .next ((writeByte off (v.setWidth 8) s).withPending rest) := by
  obtain ⟨hlo, hhi, hn, ha⟩ := inContract_offset s.config h (.inl rfl) (Nat.mod_one off)
  rw [step_writeAccess hlo hhi hn ha (by omega) hp, Nat.add_sub_cancel_left, writeBytes_one, writeByte_withPending]

/-- Settles O43: a one-byte read returns `readByte`, whose rows are the clauses. -/
theorem registerMapReads : Obligations.RegisterMapReads := by
  intro s off rest hoff hp
  refine ⟨readByte s off, step_read_one hoff hp, fun h => readByte_eq_zero s (by omega), ?_, ?_,
    fun _ _ => readByte_eq_zero s (by omega), ?_, fun _ _ => readByte_eq_zero s (by omega), ?_,
    fun _ => readByte_eq_zero s (by omega)⟩
  · rintro k rfl
    rw [readByte_status s k.val k.isLt, byteOf_toNat]
  · rintro k rfl
    rw [readByte_faultCmd s k.val k.isLt, byteOf_toNat]
  · rintro k rfl
    exact readByte_ctrbuf s k
  · rintro k rfl
    exact readByte_dbuf s k

/-- Settles O44: a one-byte write is `writeByte`, whose rows are the clauses. -/
theorem registerMapWrites : Obligations.RegisterMapWrites := by
  intro s off v rest hoff hp
  have hstep := step_write_one hoff hp
  refine ⟨fun h => ?_, ?_, ?_, ?_, ?_⟩
  · rw [hstep, writeByte_outside_buffers s _ h]
    rfl
  · rintro k rfl
    rw [hstep, writeByte_ctrbuf]
    rfl
  · rintro k rfl
    rw [hstep, writeByte_noncebuf]
    rfl
  · rintro k rfl
    rw [hstep, writeByte_keybuf]
    rfl
  · rintro k rfl
    rw [hstep, writeByte_dbuf]
    rfl

/-! ### What is read back -/

/-- An offset of the window is an offset of STATUS, FAULT_CMD, CTRBUF or DBUF, or it reads zero (R51). -/
theorem offset_cases (off : Nat) :
    (∃ k < 4, off = 0x04 + k) ∨ (∃ k < 4, off = 0x08 + k) ∨ (∃ k : Fin 8, off = 0x10 + k.val) ∨
      (∃ k : Fin 64, off = 0x40 + k.val) ∨ ∀ s, readByte s off = 0 := by
  by_cases hstatus : 0x04 ≤ off ∧ off < 0x08
  · exact .inl ⟨off - 0x04, by omega, by omega⟩
  by_cases hfaultCmd : 0x08 ≤ off ∧ off < 0x0C
  · exact .inr (.inl ⟨off - 0x08, by omega, by omega⟩)
  by_cases hctrbuf : 0x10 ≤ off ∧ off < 0x18
  · exact .inr (.inr (.inl ⟨⟨off - 0x10, by omega⟩, by dsimp only; omega⟩))
  by_cases hdbuf : 0x40 ≤ off ∧ off < 0x80
  · exact .inr (.inr (.inr (.inl ⟨⟨off - 0x40, by omega⟩, by dsimp only; omega⟩)))
  exact .inr (.inr (.inr (.inr fun s => readByte_eq_zero s (by omega))))

/-- A byte write leaves every other byte of the window as it reads (R57). -/
theorem readByte_writeByte_ne (s : State) {off off' : Nat} (b : Byte) (hne : off' ≠ off) :
    readByte (writeByte off b s) off' = readByte s off' := by
  obtain ⟨-, -, hROUNDS, hKEYED, hFAULTED, hFCODE, hFAULT_CMD, -⟩ := writeByte_engine off b s
  have hkept := writeByte_buffersKept off b s
  obtain ⟨k, hk, rfl⟩ | ⟨k, hk, rfl⟩ | ⟨k, rfl⟩ | ⟨k, rfl⟩ | hzero := offset_cases off'
  · rw [readByte_status _ k hk, readByte_status _ k hk, statusWord_eq_iff.mpr ⟨hKEYED, hFAULTED, hFCODE, hROUNDS⟩]
  · rw [readByte_faultCmd _ k hk, readByte_faultCmd _ k hk, hFAULT_CMD]
  · rw [readByte_ctrbuf, readByte_ctrbuf, hkept.CTRBUF k (by omega)]
  · rw [readByte_dbuf, readByte_dbuf, hkept.DBUF k (by omega)]
  · rw [hzero, hzero]

/-- A byte written to CTRBUF or DBUF is read back (R57). -/
theorem readByte_writeByte_same (s : State) {off : Nat} (b : Byte)
    (h : 0x10 ≤ off ∧ off < 0x18 ∨ 0x40 ≤ off ∧ off < 0x80) : readByte (writeByte off b s) off = b := by
  obtain ⟨k, rfl⟩ | ⟨k, rfl⟩ : (∃ k : Fin 8, off = 0x10 + k.val) ∨ ∃ k : Fin 64, off = 0x40 + k.val :=
    h.imp (fun h => ⟨⟨off - 0x10, by omega⟩, by dsimp only; omega⟩)
      (fun h => ⟨⟨off - 0x40, by omega⟩, by dsimp only; omega⟩)
  · rw [readByte_ctrbuf, writeByte_ctrbuf]
    exact Vector.getElem_set_self k.isLt
  · rw [readByte_dbuf, writeByte_dbuf]
    exact Vector.getElem_set_self k.isLt

/-- After reset every byte of the window reads zero (R36). -/
theorem readByte_reset (off : Nat) : readByte State.reset off = 0 := by
  obtain ⟨k, hk, rfl⟩ | ⟨k, hk, rfl⟩ | ⟨k, rfl⟩ | ⟨k, rfl⟩ | hzero := offset_cases off
  · simp [readByte_status _ k hk, statusWord, bitWord, byteOf]
  · simp [readByte_faultCmd _ k hk, byteOf]
  · simp [readByte_ctrbuf]
  · simp [readByte_dbuf]
  · exact hzero State.reset

/-- Settles O46: what a byte write stores, and what GEN, WSTORE and APPLY put into DBUF, byte by byte. -/
theorem portBuffersReadBack : Obligations.PortBuffersReadBack := by
  refine ⟨fun s off b h => readByte_writeByte_same s b h, fun s off off' b _ _ hne => readByte_writeByte_ne s b hne,
    fun s hs => ⟨_, exec_gen hs, fun k => ?_⟩, fun s hs => ⟨_, exec_wstore hs, fun k => ?_⟩,
    fun s hs => ⟨_, exec_apply hs, fun k => ?_⟩, fun off _ => readByte_reset off⟩
  · exact (readByte_dbuf _ k).trans (serialize_get _ k)
  · exact (readByte_dbuf _ k).trans (serialize_get _ k)
  · rw [readByte_dbuf s]
    exact (readByte_dbuf _ k).trans ((xorBytes_get _ _ k).trans (congrArg _ (serialize_get _ k)))

/-! ### Which accesses are taken (R54, R69) -/

theorem onWindow_outside {s : State} {addr : Nat} (n : Nat) (act : Nat → Result)
    (h : addr < s.config.ENGINE_BASE ∨ s.config.ENGINE_BASE + 256 ≤ addr) :
    onWindow s addr n act = .fault (.outsideWindow addr) := if_pos h

/-- In the window, another width or a misaligned access is refused by its name. -/
theorem onWindow_refused {s : State} {off n : Nat} (act : Nat → Result) (h : off < 256)
    (hn : ¬((n = 1 ∨ n = 2 ∨ n = 4) ∧ off % n = 0)) :
    onWindow s (s.config.ENGINE_BASE + off) n act =
      .refused (if n = 1 ∨ n = 2 ∨ n = 4 then .misalignedAccess off n else .unsupportedWidth n) := by
  rw [onWindow, if_neg (by omega), Nat.add_sub_cancel_left]
  by_cases hwidth : n = 1 ∨ n = 2 ∨ n = 4
  · rw [if_neg (not_not_intro hwidth), if_pos fun ha => hn ⟨hwidth, ha⟩, if_pos hwidth]
  · rw [if_pos hwidth, if_neg hwidth]

theorem hostStep_read (addr n : Nat) (s : State) :
    hostStep (.read addr n) s = onWindow s addr n fun off => readAccess off n s := rfl

theorem hostStep_write (addr n : Nat) (v : Word) (s : State) :
    hostStep (.write addr n v) s = onWindow s addr n fun off => writeAccess off n v s := rfl

/-- A host step is taken exactly when it keeps the contract: every command and every access in the window answers. -/
theorem hostStep_answers_iff (a : HostStep) (s : State) : (∃ t, hostStep a s = .next t) ↔ conforming s.config a := by
  cases a with
  | read addr n =>
    rw [hostStep_read]
    refine ⟨fun ⟨t, h⟩ => ?_, fun ⟨hlo, hhi, hn, ha⟩ => ?_⟩
    · obtain ⟨hlo, hhi, hn, ha, -⟩ := onWindow_next h
      exact ⟨hlo, hhi, hn, ha⟩
    · rw [onWindow_eq s addr n _ hlo hhi hn ha]
      exact ⟨_, rfl⟩
  | write addr n v =>
    rw [hostStep_write]
    refine ⟨fun ⟨t, h⟩ => ?_, fun ⟨hlo, hhi, hn, ha⟩ => ?_⟩
    · obtain ⟨hlo, hhi, hn, ha, -⟩ := onWindow_next h
      exact ⟨hlo, hhi, hn, ha⟩
    · rw [onWindow_eq s addr n _ hlo hhi hn ha, writeAccess]
      split
      · exact command_answers v s
      · exact ⟨_, rfl⟩
  | reset => exact ⟨fun _ => trivial, fun _ => ⟨_, rfl⟩⟩

/-- Settles O54: an idle engine has a step, and a host step is taken exactly when it keeps the contract. -/
theorem contractIsExactlyWhatRuns : Obligations.ContractIsExactlyWhatRuns := by
  intro s
  cases hp : s.pending with
  | nil => simp [safeState, hp, step_idle hp]
  | cons a rest =>
    rw [step_pending hp, hostStep_answers_iff]
    simp [safeState, hp]

/-- Settles O49: the check on the address is the first, and the window ends at a multiple of 4. -/
theorem addressesOutsideTheWindow : Obligations.AddressesOutsideTheWindow := by
  refine ⟨fun s addr n v rest h hp => ?_, fun off n h hn ha => aligned_access_below hn ha rfl h⟩
  obtain hp | hp := hp
  · rw [step_pending hp, hostStep_read]
    exact onWindow_outside n _ h
  · rw [step_pending hp, hostStep_write]
    exact onWindow_outside n _ h

/-- The rows of the register map begin and end at multiples of 4 (R51). -/
theorem portAt_eq_of_div {off off' : Nat} (h : off / 4 = off' / 4) : portAt off = portAt off' := by
  have hbound (c : Nat) : off < 4 * c ↔ off' < 4 * c := by omega
  have h04 := hbound 1
  have h08 := hbound 2
  have h0C := hbound 3
  have h10 := hbound 4
  have h18 := hbound 6
  have h20 := hbound 8
  have h40 := hbound 16
  have h80 := hbound 32
  simp only [Nat.reduceMul] at h04 h08 h0C h10 h18 h20 h40 h80
  simp only [portAt, h04, h08, h0C, h10, h18, h20, h40, h80]

/-- Settles O48: an aligned access keeps the contract and stays within four bytes at a multiple of 4; another is refused. -/
theorem alignedAccessesOnly : Obligations.AlignedAccessesOnly := by
  intro s off n v rest hoff
  refine ⟨fun ⟨hn, ha⟩ => ?_, fun hn hp => ?_⟩
  · have hin := inContract_offset s.config hoff hn ha
    refine ⟨fun hp => ?_, fun hp => ?_, fun k hk => portAt_eq_of_div ?_⟩
    · rw [step_pending hp]
      exact (hostStep_answers_iff _ _).mpr hin
    · rw [step_pending hp]
      exact (hostStep_answers_iff _ _).mpr hin
    · obtain rfl | rfl | rfl := hn <;> omega
  · obtain hp | hp := hp
    · rw [step_pending hp, hostStep_read]
      exact onWindow_refused (s := s.withPending rest) _ hoff hn
    · rw [step_pending hp, hostStep_write]
      exact onWindow_refused (s := s.withPending rest) _ hoff hn

/-! ### Accesses of more bytes -/

theorem runSteps_succ {s t : State} (h : step s = .next t) (n : Nat) : runSteps (n + 1) s = runSteps n t := by
  rw [runSteps, h]

/-- The one-byte write of byte k of the value (R53). -/
def byteWrite (addr : Nat) (v : Word) (k : Nat) : HostStep := .write (addr + k) 1 ((v.extractLsb' (8 * k) 8).setWidth 32)

/-- The step of byte k of a write takes the buffers from its first k bytes to its first k + 1. -/
theorem step_byteWrite {s : State} {off k : Nat} (v : Word) (rest : List HostStep) (h : off + k < 256) :
    step ((writeBytes off v k s).withPending (byteWrite (s.config.ENGINE_BASE + off) v k :: rest)) =
      .next ((writeBytes off v (k + 1) s).withPending rest) := by
  obtain ⟨-, -, -, -, -, -, -, hconfig, -⟩ := writeBytes_engine off v k s
  have hbyte : ((v.extractLsb' (8 * k) 8).setWidth 32).setWidth 8 = byteOf v k := by
    simp [byteOf]
  rw [step_write_one (off := off + k) h (by rw [State.withPending_pending, State.withPending_config, hconfig,
    byteWrite, Nat.add_assoc]), hbyte, writeByte_withPending]
  rfl

/-- After the first k bytes of a write, its other m bytes are m one-byte writes. -/
theorem runSteps_byteWrites {s : State} {off : Nat} (v : Word) (rest : List HostStep) (k m : Nat)
    (h : off + k + m ≤ 256) :
    runSteps m ((writeBytes off v k s).withPending
        ((List.range' k m).map (byteWrite (s.config.ENGINE_BASE + off) v) ++ rest)) =
      .next ((writeBytes off v (k + m) s).withPending rest) := by
  induction m generalizing k with
  | zero => rfl
  | succ m ih =>
    rw [List.range'_succ, List.map_cons, List.cons_append, runSteps_succ (step_byteWrite v _ (by omega)),
      ih (k + 1) (by omega), Nat.add_right_comm, Nat.add_assoc]

theorem writeBytes_withPending (off n : Nat) (v : Word) (s : State) (p : List HostStep) :
    writeBytes off v n (s.withPending p) = (writeBytes off v n s).withPending p := by
  induction n with
  | zero => rfl
  | succ n ih => rw [writeBytes, ih, writeByte_withPending, writeBytes]

theorem readSum_eq_sum (s : State) (off n : Nat) :
    readSum s off n = ((List.range n).map fun k => (readByte s (off + k)).toNat * 256 ^ k).sum := by
  induction n with
  | zero => rfl
  | succ n ih => simp [readSum, ih, List.range_succ]

theorem readSum_lt (s : State) (off n : Nat) : readSum s off n < 256 ^ n := by
  induction n with
  | zero => simp [readSum]
  | succ n ih =>
    have hbyte : (readByte s (off + n)).toNat ≤ 255 := Nat.le_of_lt_succ (readByte s (off + n)).isLt
    have hmul : (readByte s (off + n)).toNat * 256 ^ n ≤ 255 * 256 ^ n := Nat.mul_le_mul_right _ hbyte
    rw [readSum, pow_succ]
    omega

/-- A read of up to four bytes returns their sum, with nothing cut off (R53). -/
theorem readBytes_toNat (s : State) (off : Nat) {n : Nat} (hn : n ≤ 4) :
    (readBytes s off n).toNat = readSum s off n := by
  have hlt : 256 ^ n ≤ 2 ^ 32 := Nat.pow_le_pow_right (n := 256) (by omega) hn
  rw [readBytes, BitVec.toNat_ofNat, Nat.mod_eq_of_lt ((readSum_lt s off n).trans_le hlt)]

/-- Settles O47: the bytes of a write are written in increasing order, and those of a read are summed. -/
theorem wideAccessIsByteAccesses : Obligations.WideAccessIsByteAccesses := by
  refine ⟨fun s addr n v rest hin hc hp => ?_, fun s addr n rest hin hp => ?_⟩
  · obtain ⟨hlo, hhi, hn, ha⟩ := hin
    obtain ⟨off, rfl⟩ := Nat.exists_eq_add_of_le hlo
    have hend : off + n ≤ 256 := aligned_access_below hn (by rwa [Nat.add_sub_cancel_left] at ha) rfl (by omega)
    have hbytes := runSteps_byteWrites (s := s) (off := off) v rest 0 n (by omega)
    rw [step_writeAccess hlo hhi hn ha hc hp, Nat.add_sub_cancel_left, writeBytes_withPending, List.range_eq_range']
    exact (hbytes.trans (by rw [Nat.zero_add])).symm
  · obtain ⟨hlo, hhi, hn, ha⟩ := hin
    refine ⟨_, step_readAccess hlo hhi hn ha hp, ?_⟩
    rw [readBytes_toNat _ _ (by omega), readSum_eq_sum]

/-! ### The halted engine -/

/-- Each byte of DBUF that a write addresses takes the byte of the value (R53). -/
theorem writeBytes_DBUF_get {off n k : Nat} (v : Word) (s : State) (hk : k < n) (j : Fin 64)
    (hj : off + k = 0x40 + j.val) : (writeBytes off v n s).DBUF[j] = byteOf v k := by
  induction n with
  | zero => omega
  | succ n ih =>
    rw [writeBytes]
    by_cases hlast : k = n
    · subst hlast
      rw [hj, writeByte_dbuf]
      exact Vector.getElem_set_self j.isLt
    · rw [(writeByte_buffersKept (off + n) (byteOf v n) _).DBUF j (by omega), ih (by omega)]

/-- Settles O15: `command` looks at FAULTED first, and the other accesses do not look at it. -/
theorem haltedEngineIgnoresCommands : Obligations.HaltedEngineIgnoresCommands := by
  intro s hf
  refine ⟨fun v rest hp => (step_command hp).trans (command_halted (s := s.withPending rest) hf v), fun i => exec_halted i hf,
    fun addr n rest hin hp => ?_, fun addr n v rest hin hc hp => ?_⟩
  · obtain ⟨hlo, hhi, hn, ha⟩ := hin
    refine ⟨_, step_readAccess hlo hhi hn ha hp, ?_⟩
    rintro rfl
    exact readBytes_one s _
  · obtain ⟨hlo, hhi, hn, ha⟩ := hin
    obtain ⟨-, -, -, -, hFAULTED, hFCODE, hFAULT_CMD, -⟩ :=
      writeBytes_engine (addr - s.config.ENGINE_BASE) v n (s.withPending rest)
    exact ⟨_, step_writeAccess hlo hhi hn ha hc hp, hFAULTED.trans hf, hFCODE, hFAULT_CMD,
      fun k hk j hj => writeBytes_DBUF_get v _ hk j hj⟩

end Sys2Proof.Machine
